-- ==== Sys2Proof/Word.lean ====
section
/-! DEFINITION. The word types of the machine: bytes and 24-bit addresses (00_scope.md R5, 20_memory.md R50). -/

namespace Sys2Proof

/-- An 8-bit byte: one memory location, one byte of an instruction, the register `B`. -/
abbrev Byte := BitVec 8

/-- A 24-bit byte address: `PC`, `SP`, `HL`, `IX`, `IY`, `imm24` (R20 to R24, R50). Sums and differences are modulo 2^24. -/
abbrev Addr := BitVec 24

end Sys2Proof
end

