-- ==== Sys2Proof/Config.lean ====
section
/-! DEFINITION. The open parameters of 00_scope.md section 4 that an implementation fixes. Each is a constant without a
body: nothing can evaluate it, so a statement that holds of the model holds for every value of it. -/

namespace Sys2Proof

/-- `EI_DELAY` (R33, R102, D16): whether EI holds maskable acceptance off for one instruction. Free; log 7. -/
opaque Config.eiDelay : Bool

/-- `NMI_VECTOR` (R160, D15): where a nonmaskable interrupt goes. Free; log 8. -/
opaque Config.nmiVector : Addr

/-- `NMI_IEF2` (R160, D15): true is `copy_of_IEF1`, false is `unchanged`. Free; log 9. -/
opaque Config.nmiCopiesIef1 : Bool

/-- `IM2_TARGET` (R158, D18), its memory reads: the addresses that a mode 2 acceptance reads, in order, from the 16-bit value
formed (`I[7:0]` above the device's byte). None in the spec's candidate (a), the table entry's in candidate (b); free, so both
are covered; log 10. -/
opaque Config.im2Reads : BitVec 16 → List Addr

/-- `IM2_TARGET` (R158, D18), its value: the routine's address, from the 16-bit value formed and the bytes read. Free; log 10. -/
opaque Config.im2Target : BitVec 16 → List Byte → Addr

end Sys2Proof
end

