-- ==== Sys2Proof/Syntax.lean ====
section
/-! DEFINITION. The instructions: one constructor per row of spec/opcode_table.json (30_encoding.md R80), and the reasons why
a sequence of bytes is none of them (R78, R81, R82). -/

namespace Sys2Proof

/-- The eight conditions (R72, R120). -/
inductive Cond where
  | nz | z | nc | c | po | pe | p | m
deriving DecidableEq, Repr

/-- The 27 rows of the opcode table, in its order. Operands are named as in R7; `rst` holds the 3-bit field `t` of R74. -/
inductive Instr where
  | ccf
  | di
  | ei
  | halt
  | im0
  | im1
  | im2
  | nop
  | rsmix
  | scf
  | slp
  | stmix
  | callCc (cc : Cond) (imm24 : Addr)
  | call (imm24 : Addr)
  | djnz (ofs8 : Byte)
  | jpHl
  | jpCc (cc : Cond) (imm24 : Addr)
  | jp (imm24 : Addr)
  | jpIx
  | jpIy
  | jr (ofs8 : Byte)
  | jrCc (cc : Cond) (ofs8 : Byte)
  | retCc (cc : Cond)
  | ret
  | reti
  | retn
  | rst (t : BitVec 3)
deriving DecidableEq, Repr

/-- Why the decoder refuses a sequence of bytes: outside the opcode table, so outside the spec (R81, D11). -/
inductive Reject where
  /-- The first byte is none of the 51 first bytes of R80. -/
  | firstByte (b0 : Byte)
  /-- `$ED` followed by none of its eight second bytes (R81); `$ED $4E`, the mode field `01` of IM (R82), has its own name. -/
  | afterEd (b1 : Byte)
  /-- `$ED $4E`: the mode field `01` selects no interrupt mode (R82, D12). -/
  | imField01
  /-- `$DD` or `$FD` followed by a byte other than `$E9` (R78, R81). -/
  | afterIndex (b0 b1 : Byte)
  /-- Fewer bytes than the instruction is long: the list ended. The machine always fetches enough, so no step meets it. -/
  | truncated
deriving DecidableEq, Repr

/-- The length in bytes (R70, R71): it never depends on a register, a flag or a condition (R79). -/
def Instr.length : Instr → Nat
  | .ccf => 1
  | .di => 1
  | .ei => 1
  | .halt => 1
  | .im0 => 2
  | .im1 => 2
  | .im2 => 2
  | .nop => 1
  | .rsmix => 2
  | .scf => 1
  | .slp => 2
  | .stmix => 2
  | .callCc _ _ => 4
  | .call _ => 4
  | .djnz _ => 2
  | .jpHl => 1
  | .jpCc _ _ => 4
  | .jp _ => 4
  | .jpIx => 2
  | .jpIy => 2
  | .jr _ => 2
  | .jrCc _ _ => 2
  | .retCc _ => 1
  | .ret => 1
  | .reti => 2
  | .retn => 2
  | .rst _ => 1

end Sys2Proof
end

