-- ==== Sys2Proof/WellFormed.lean ====
section
/-! DEFINITION. Which instruction terms the hardware has. The operand types leave one thing to check: `jr cc` has a 2-bit
condition field, so it has no PO, PE, P or M form (30_encoding.md R73). -/

namespace Sys2Proof

/-- The four conditions that the 2-bit field of `jr cc, ofs8` encodes (R73). -/
def Cond.fitsTwoBits : Cond → Bool
  | .nz => true
  | .z => true
  | .nc => true
  | .c => true
  | .po => false
  | .pe => false
  | .p => false
  | .m => false

/-- An instruction the hardware has: every term but `jr` with one of PO, PE, P, M. -/
def Instr.wellFormed : Instr → Bool
  | .ccf => true
  | .di => true
  | .ei => true
  | .halt => true
  | .im0 => true
  | .im1 => true
  | .im2 => true
  | .nop => true
  | .rsmix => true
  | .scf => true
  | .slp => true
  | .stmix => true
  | .callCc _ _ => true
  | .call _ => true
  | .djnz _ => true
  | .jpHl => true
  | .jpCc _ _ => true
  | .jp _ => true
  | .jpIx => true
  | .jpIy => true
  | .jr _ => true
  | .jrCc cc _ => cc.fitsTwoBits
  | .retCc _ => true
  | .ret => true
  | .reti => true
  | .retn => true
  | .rst _ => true

end Sys2Proof
end

