-- ==== Sys2Proof/Decode.lean ====
section
/-! DEFINITION. The decoder (30_encoding.md R79, R80, R85) and, after it, the encoder (R71, R80). Bytes stand in fetch order,
lowest address first (R3, R78). -/

namespace Sys2Proof

/-! ### Fields -/

/-- The condition of the 3-bit field `cc` (R72). -/
def condOfCode3 (code : BitVec 3) : Cond :=
  if code = 0b000#3 then .nz
  else if code = 0b001#3 then .z
  else if code = 0b010#3 then .nc
  else if code = 0b011#3 then .c
  else if code = 0b100#3 then .po
  else if code = 0b101#3 then .pe
  else if code = 0b110#3 then .p
  else .m

/-- The condition of the 2-bit field `cc` of `jr cc, ofs8` (R73). -/
def condOfCode2 (code : BitVec 2) : Cond :=
  if code = 0b00#2 then .nz
  else if code = 0b01#2 then .z
  else if code = 0b10#2 then .nc
  else .c

/-- `imm24` from bytes 1, 2 and 3 of the instruction, little-endian (R76; `fetch24` of R54). -/
def imm24OfBytes (l m h : Byte) : Addr := h ++ m ++ l

/-! ### Length -/

/-- How many bytes to fetch, from the first byte alone (R79). A first byte outside the table counts as one byte: the decoder
refuses it by itself. -/
def lengthOfFirst (b0 : Byte) : Nat :=
  if b0 = 0xED#8 ∨ b0 = 0xDD#8 ∨ b0 = 0xFD#8 then 2
  else if b0 = 0xC3#8 ∨ b0 = 0xCD#8 then 4
  else if b0.extractLsb' 6 2 = 0b11#2 ∧ (b0.extractLsb' 0 3 = 0b010#3 ∨ b0.extractLsb' 0 3 = 0b100#3) then 4
  else if b0 = 0x10#8 ∨ b0 = 0x18#8 ∨ b0 = 0x20#8 ∨ b0 = 0x28#8 ∨ b0 = 0x30#8 ∨ b0 = 0x38#8 then 2
  else 1

/-! ### The decoder -/

/-- An instruction and the bytes after it, or the reason why there is none. -/
abbrev Decoded := Except Reject (Instr × List Byte)

/-- The formats `OP_D8` and `OP_CC2_D8` (R71): one operand byte, `ofs8`. -/
def withOfs8 (mk : Byte → Instr) : List Byte → Decoded
  | d :: rest => .ok (mk d, rest)
  | [] => .error .truncated

/-- The formats `OP_A24` and `OP_CC3_A24` (R71): three operand bytes, `imm24`. -/
def withImm24 (mk : Addr → Instr) : List Byte → Decoded
  | l :: m :: h :: rest => .ok (mk (imm24OfBytes l m h), rest)
  | _ => .error .truncated

/-- The format `ED_OP` (R71): the eight second bytes after `$ED` (R79). -/
def decodeEd : List Byte → Decoded
  | [] => .error .truncated
  | b1 :: rest =>
    if b1 = 0x45#8 then .ok (.retn, rest)
    else if b1 = 0x46#8 then .ok (.im0, rest)
    else if b1 = 0x4D#8 then .ok (.reti, rest)
    else if b1 = 0x56#8 then .ok (.im1, rest)
    else if b1 = 0x5E#8 then .ok (.im2, rest)
    else if b1 = 0x76#8 then .ok (.slp, rest)
    else if b1 = 0x7D#8 then .ok (.stmix, rest)
    else if b1 = 0x7E#8 then .ok (.rsmix, rest)
    else if b1 = 0x4E#8 then .error .imField01
    else .error (.afterEd b1)

/-- The format `IDX_OP` (R71): `$E9` after `$DD` or `$FD` (R78). -/
def decodeIndex (b0 : Byte) (i : Instr) : List Byte → Decoded
  | [] => .error .truncated
  | b1 :: rest => if b1 = 0xE9#8 then .ok (i, rest) else .error (.afterIndex b0 b1)

/-- The patterns `11ccc000`, `11ccc010`, `11ccc100` and `11ttt111` (R71, R85): the first bytes that hold a field at 5:3. -/
def decodeField (b0 : Byte) (rest : List Byte) : Decoded :=
  if b0.extractLsb' 6 2 = 0b11#2 then
    let field := b0.extractLsb' 3 3
    if b0.extractLsb' 0 3 = 0b000#3 then .ok (.retCc (condOfCode3 field), rest)
    else if b0.extractLsb' 0 3 = 0b010#3 then withImm24 (.jpCc (condOfCode3 field)) rest
    else if b0.extractLsb' 0 3 = 0b100#3 then withImm24 (.callCc (condOfCode3 field)) rest
    else if b0.extractLsb' 0 3 = 0b111#3 then .ok (.rst field, rest)
    else .error (.firstByte b0)
  else .error (.firstByte b0)

/-- The decoder of R85: total on every list of bytes, and the bytes after the instruction are given back. -/
def decode : List Byte → Decoded
  | [] => .error .truncated
  | b0 :: rest =>
    if b0 = 0x00#8 then .ok (.nop, rest)
    else if b0 = 0x10#8 then withOfs8 .djnz rest
    else if b0 = 0x18#8 then withOfs8 .jr rest
    else if b0 = 0x20#8 ∨ b0 = 0x28#8 ∨ b0 = 0x30#8 ∨ b0 = 0x38#8 then
      withOfs8 (.jrCc (condOfCode2 (b0.extractLsb' 3 2))) rest
    else if b0 = 0x37#8 then .ok (.scf, rest)
    else if b0 = 0x3F#8 then .ok (.ccf, rest)
    else if b0 = 0x76#8 then .ok (.halt, rest)
    else if b0 = 0xC3#8 then withImm24 .jp rest
    else if b0 = 0xC9#8 then .ok (.ret, rest)
    else if b0 = 0xCD#8 then withImm24 .call rest
    else if b0 = 0xE9#8 then .ok (.jpHl, rest)
    else if b0 = 0xF3#8 then .ok (.di, rest)
    else if b0 = 0xFB#8 then .ok (.ei, rest)
    else if b0 = 0xDD#8 then decodeIndex b0 .jpIx rest
    else if b0 = 0xFD#8 then decodeIndex b0 .jpIy rest
    else if b0 = 0xED#8 then decodeEd rest
    else decodeField b0 rest

/-! ### The encoder -/

/-- The 3-bit code of a condition (R72). -/
def Cond.code3 : Cond → BitVec 3
  | .nz => 0b000#3
  | .z => 0b001#3
  | .nc => 0b010#3
  | .c => 0b011#3
  | .po => 0b100#3
  | .pe => 0b101#3
  | .p => 0b110#3
  | .m => 0b111#3

/-- The 2-bit code of a condition that `jr cc` has: the low two bits of its 3-bit code (R73). -/
def Cond.code2 (cc : Cond) : BitVec 2 := cc.code3.extractLsb' 0 2

/-- The three operand bytes of `imm24` in memory order (R76). -/
def imm24Bytes (a : Addr) : List Byte := [a.extractLsb' 0 8, a.extractLsb' 8 8, a.extractLsb' 16 8]

/-- The bytes of an instruction, in fetch order (R71, R80). -/
def encode : Instr → List Byte
  | .ccf => [0b00111111#8]
  | .di => [0b11110011#8]
  | .ei => [0b11111011#8]
  | .halt => [0b01110110#8]
  | .im0 => [0b11101101#8, 0b010#3 ++ 0b00#2 ++ 0b110#3]
  | .im1 => [0b11101101#8, 0b010#3 ++ 0b10#2 ++ 0b110#3]
  | .im2 => [0b11101101#8, 0b010#3 ++ 0b11#2 ++ 0b110#3]
  | .nop => [0b00000000#8]
  | .rsmix => [0b11101101#8, 0b01111110#8]
  | .scf => [0b00110111#8]
  | .slp => [0b11101101#8, 0b01110110#8]
  | .stmix => [0b11101101#8, 0b01111101#8]
  | .callCc cc a => (0b11#2 ++ cc.code3 ++ 0b100#3) :: imm24Bytes a
  | .call a => 0b11001101#8 :: imm24Bytes a
  | .djnz d => [0b00010000#8, d]
  | .jpHl => [0b11101001#8]
  | .jpCc cc a => (0b11#2 ++ cc.code3 ++ 0b010#3) :: imm24Bytes a
  | .jp a => 0b11000011#8 :: imm24Bytes a
  | .jpIx => [0b11011101#8, 0b11101001#8]
  | .jpIy => [0b11111101#8, 0b11101001#8]
  | .jr d => [0b00011000#8, d]
  | .jrCc cc d => [0b001#3 ++ cc.code2 ++ 0b000#3, d]
  | .retCc cc => [0b11#2 ++ cc.code3 ++ 0b000#3]
  | .ret => [0b11001001#8]
  | .reti => [0b11101101#8, 0b01001101#8]
  | .retn => [0b11101101#8, 0b01000101#8]
  | .rst t => [0b11#2 ++ t ++ 0b111#3]

/-! ### Instructions as the opcode table numbers their bits -/

/-- The `n` bytes of the number `w`, the first byte the most significant: the opcode table writes `match` with the first byte
leftmost and numbers bits from the last byte's least significant bit (30_encoding.md, "How to read", 98_reader.md; log 20). -/
def bytesOfTableWord : Nat → Nat → List Byte
  | 0, _ => []
  | n + 1, w => BitVec.ofNat 8 (w >>> (8 * n)) :: bytesOfTableWord n w

/-- The bytes in memory order of a table word of `nbits` bits, with zero bytes after it up to the longest instruction. -/
def tableBytes (nbits w : Nat) : List Byte :=
  bytesOfTableWord (nbits / 8) w ++ List.replicate (4 - nbits / 8) 0x00#8

/-- The instruction the decoder reads from a table word; none where it refuses. -/
def decodeTableWord (nbits w : Nat) : Option Instr :=
  match decode (tableBytes nbits w) with
  | .ok (i, _) => some i
  | .error _ => none

end Sys2Proof
end

