-- ==== Sys2Proof/Machine/State.lean ====
section
/-! DEFINITION. The state of the machine as plain data (10_state.md), the reasons a step can stop, and the state after reset. -/

namespace Sys2Proof.Machine

/-- The flags (R26, R27): six separate bits. -/
structure Flags where
  /-- Carry. -/
  c : Bool
  /-- Half carry. -/
  h : Bool
  /-- Add/subtract. -/
  n : Bool
  /-- Zero. -/
  z : Bool
  /-- Parity/overflow. -/
  pv : Bool
  /-- Sign. -/
  s : Bool
deriving DecidableEq, Repr

/-- The interrupt modes (R29); no other value exists. -/
inductive IntMode where
  | mode0 | mode1 | mode2
deriving DecidableEq, Repr

/-- The run states (R32). HALTED and SLEEPING behave alike (R171). -/
inductive RunState where
  | running | halted | sleeping
deriving DecidableEq, Repr

/-- The kinds of access that a platform admits or not (R60). -/
inductive Access where
  | fetch | read | write
deriving DecidableEq, Repr

/-- A range of addresses for which the platform does not admit one kind of access (R60). -/
structure Region where
  kind : Access
  base : Nat
  size : Nat
deriving DecidableEq, Repr

/-- What the environment presents at one instruction boundary (R34): the three request lines, and the byte the interrupting
device drives in the acknowledge cycle (read in modes 0 and 2 only). -/
structure Input where
  reset : Bool
  nmi : Bool
  int : Bool
  device : Byte
deriving DecidableEq, Repr

/-- A boundary at which nothing is requested. -/
def Input.quiet : Input := { reset := false, nmi := false, int := false, device := 0x00#8 }

/-- Memory: the bytes that differ from what an unlisted address reads as, by rising address (R50; the form is `Memory.wf`). -/
abbrev Memory := List Host.Cell

/-- What an unlisted address reads as. DESIGN CHOICE (log 3): the spec gives memory no content at launch. -/
def Memory.blank : Byte := 0x00#8

/-- The canonical form: addresses inside the space and strictly rising, and no entry that an unlisted address would give. -/
abbrev Memory.wf (m : Memory) : Prop :=
  m.Pairwise (fun c d => c.1 < d.1) ∧ ∀ c ∈ m, c.1 < 2 ^ 24 ∧ c.2 ≠ Memory.blank

/-- The machine's state: 10_state.md section 1, and two fields of the model's own (`inputs`, `unbacked`) that hold what the
spec gives as inputs of the step (R34) and as the platform's parameter `admit` (R60). -/
structure State where
  /-- Program counter (R20). -/
  pc : Addr
  /-- Stack pointer (R21): the address of the byte pushed last. -/
  sp : Addr
  /-- Register `B` (R22). -/
  b : Byte
  /-- Register `HL` (R23). -/
  hl : Addr
  /-- Register `IX` (R24). -/
  ix : Addr
  /-- Register `IY` (R24). -/
  iy : Addr
  /-- Interrupt vector base register (R25); only its low byte is used. Width: log 13. -/
  i : BitVec 16
  /-- The six flags (R26, R27). -/
  flags : Flags
  /-- Maskable interrupts are enabled (R28). -/
  ief1 : Bool
  /-- The copy that RETN copies back (R28). -/
  ief2 : Bool
  /-- Interrupt mode (R29). -/
  im : IntMode
  /-- Mixed memory mode flag (R30). -/
  madl : Bool
  /-- Run state (R32). -/
  run : RunState
  /-- `EI_SHADOW` (R33): a maskable interrupt is not accepted at this boundary. -/
  eiShadow : Bool
  /-- The memory (R50). -/
  mem : Memory
  /-- The inputs of the coming boundaries, the next one first; past its end nothing is requested (R34, log 5). -/
  inputs : List Input
  /-- The platform's `admit` (R60): an access in one of these ranges is not admitted (log 6). No step changes it. -/
  unbacked : List Region
deriving DecidableEq, Repr

/-- Why the machine stops. The spec has no synchronous exception (R150), so none of these is one. -/
inductive Fault where
  /-- Raised by every access of a byte (fetch, pop, push, table read of mode 2) that the platform does not admit: the request has no step (R60, U15).
  Safe: the model stops, and shows no effect of the instruction. -/
  | notAdmitted (kind : Access) (addr : Addr)
deriving DecidableEq, Repr

/-- Where the model has no meaning (`refuse` of R6). -/
inductive Refusal where
  /-- Raised by no instruction of this model: every arm of `exec` has a meaning. Safe. -/
  | notModelled (mnemonic : String)
  /-- Raised by the step when the bytes at `PC` are not in the opcode table (R81, R82, R78). Safe: such bytes are outside the
  spec. -/
  | outsideTable (why : Reject)
  /-- Raised by interrupt acceptance, maskable or not, while `MADL = 1` (R161). Safe. -/
  | mixedModeAcceptance
  /-- Raised by maskable acceptance in mode 0 when the device inserts anything but a one-byte RST (R157). Safe. -/
  | im0Instruction (device : Byte)
deriving DecidableEq, Repr

/-- The three outcomes of an instruction, of an acceptance and of a step. -/
abbrev Outcome := Host.Outcome State Fault Refusal

namespace State

def setPc (s : State) (v : Addr) : State := { s with pc := v }
def setSp (s : State) (v : Addr) : State := { s with sp := v }
def setB (s : State) (v : Byte) : State := { s with b := v }
def setFlags (s : State) (v : Flags) : State := { s with flags := v }
def setIef1 (s : State) (v : Bool) : State := { s with ief1 := v }
def setIef2 (s : State) (v : Bool) : State := { s with ief2 := v }
def setIm (s : State) (v : IntMode) : State := { s with im := v }
def setMadl (s : State) (v : Bool) : State := { s with madl := v }
def setRun (s : State) (v : RunState) : State := { s with run := v }
def setEiShadow (s : State) (v : Bool) : State := { s with eiShadow := v }
def setMem (s : State) (v : Memory) : State := { s with mem := v }
def setInputs (s : State) (v : List Input) : State := { s with inputs := v }
def setUnbacked (s : State) (v : List Region) : State := { s with unbacked := v }

/-- The machine right after reset: `RUN = RUNNING` and `EI_SHADOW = 0` are the spec's (R190); the spec leaves every other value
open (R36), and the values here are named in log 1 (PRESUMED: `PC`, `I`, `IEF1`, `IEF2`, `IM`, `MADL`), log 2 (DESIGN CHOICE:
`SP`, `B`, `HL`, `IX`, `IY`, the flags), log 3 (memory), log 5 (no requests) and log 6 (everything admitted). -/
def reset : State where
  pc := 0x000000#24
  sp := 0x000000#24
  b := 0x00#8
  hl := 0x000000#24
  ix := 0x000000#24
  iy := 0x000000#24
  i := 0x0000#16
  flags := { c := false, h := false, n := false, z := false, pv := false, s := false }
  ief1 := false
  ief2 := false
  im := .mode0
  madl := false
  run := .running
  eiShadow := false
  mem := []
  inputs := []
  unbacked := []

end State

end Sys2Proof.Machine
end

