-- ==== Sys2Proof/Machine/Operands.lean ====
section
/-! DEFINITION. Operand forms: where the operands of 41_program_control.md and of 60_exceptions.md come from. -/

namespace Sys2Proof.Machine

/-- The target of a relative branch: the address of the following instruction plus the sign-extended displacement, modulo 2^24
(R77, R136). -/
def relTarget (next : Addr) (ofs8 : Byte) : Addr := next + ofs8.signExtend 24

/-- The target of RST: the field `t` times 8, zero-extended (R74, R135). -/
def restartTarget (t : BitVec 3) : Addr := (t ++ 0b000#3).setWidth 24

/-- The byte a device inserts in mode 0 read as a one-byte RST, `11 ttt 111`: its field `t` (R157). -/
def insertedRst (device : Byte) : Option (BitVec 3) :=
  if device.extractLsb' 6 2 = 0b11#2 ∧ device.extractLsb' 0 3 = 0b111#3 then some (device.extractLsb' 3 3) else none

/-- The 16-bit value formed in mode 2: `I[7:0]` above the device's byte (R158, R25). -/
def im2Word (i : BitVec 16) (device : Byte) : BitVec 16 := i.extractLsb' 0 8 ++ device

/-- Bits 7:0 of a pushed address (R53, R55). -/
def loByte (v : Addr) : Byte := v.extractLsb' 0 8

/-- Bits 15:8 of a pushed address (R53, R55). -/
def midByte (v : Addr) : Byte := v.extractLsb' 8 8

/-- Bits 23:16 of a pushed address (R53, R55). -/
def hiByte (v : Addr) : Byte := v.extractLsb' 16 8

/-- A 24-bit value from its three bytes, the low one first in memory (R53, R56). -/
def addrOfBytes (l m h : Byte) : Addr := h ++ m ++ l

end Sys2Proof.Machine
end

