-- ==== Sys2Proof/Machine/Ops.lean ====
section
/-! DEFINITION. The named operations: memory and the platform's admission (20_memory.md), the stack, taking an interrupt and
returning from one (60_exceptions.md), and the reset event (70_reset_and_hazards.md R190). -/

namespace Sys2Proof.Machine

/-! ### Memory as a list of cells -/

/-- The byte at an address: that of the first entry for it, or what an unlisted address reads as (R52). -/
def Memory.read : Memory → Addr → Byte
  | [], _ => Memory.blank
  | (k, v) :: m, a => if k = a.toNat then v else Memory.read m a

/-- No entry for the address is left: it reads as an unlisted one. -/
def Memory.clearAt (m : Memory) (a : Addr) : Memory := m.filter (fun c => c.1 ≠ a.toNat)

/-- The entry in its place by rising address, in place of an entry for the same address. -/
def Memory.putAt : Memory → Addr → Byte → Memory
  | [], a, v => [(a.toNat, v)]
  | (k, w) :: m, a, v =>
    if a.toNat < k then (a.toNat, v) :: (k, w) :: m
    else if a.toNat = k then (a.toNat, v) :: m
    else (k, w) :: Memory.putAt m a v

/-- `MemWrite(addr, 1, v)` on the list (R52): the canonical form is kept. -/
def Memory.write (m : Memory) (a : Addr) (v : Byte) : Memory :=
  if v = Memory.blank then m.clearAt a else m.putAt a v

/-! ### Accesses of the machine -/

/-- Whether the region denies an access of this kind at this address (R60). -/
def Region.denies (r : Region) (kind : Access) (a : Addr) : Bool :=
  r.kind == kind && decide (r.base ≤ a.toNat) && decide (a.toNat < r.base + r.size)

/-- `admit(kind, addr)` (R60). -/
def State.admits (s : State) (kind : Access) (a : Addr) : Bool := s.unbacked.all (fun r => !r.denies kind a)

/-- `MemRead(addr, 1)` (R52): stuck where the platform does not admit it (R60). -/
def readByte (kind : Access) (a : Addr) (s : State) : Except Fault Byte :=
  if s.admits kind a then .ok (s.mem.read a) else .error (.notAdmitted kind a)

/-- `MemWrite(addr, 1, v)` (R52): stuck where the platform does not admit it (R60). -/
def writeByte (a : Addr) (v : Byte) (s : State) : Except Fault State :=
  if s.admits .write a then .ok (s.setMem (s.mem.write a v)) else .error (.notAdmitted .write a)

/-- The bytes at a list of addresses, read one after the other (R52). -/
def readBytes : List Addr → State → Except Fault (List Byte)
  | [], _ => .ok []
  | a :: as, s =>
    match readByte .read a s with
    | .error f => .error f
    | .ok v =>
      match readBytes as s with
      | .error f => .error f
      | .ok vs => .ok (v :: vs)

/-- One byte of a push: the stack pointer is decremented, then the byte is written (R55). -/
def pushByte (v : Byte) (s : State) : Except Fault State := writeByte (s.sp - 1#24) v (s.setSp (s.sp - 1#24))

/-- One byte of a pop: the byte is read, then the stack pointer is incremented (R56). -/
def popByte (s : State) : Except Fault (Byte × State) :=
  match readByte .read s.sp s with
  | .error f => .error f
  | .ok v => .ok (v, s.setSp (s.sp + 1#24))

/-- `push24(v)` (R55): the high byte first, so that the bytes lie little-endian at the new `SP`. -/
def push24 (v : Addr) (s : State) : Except Fault State :=
  match pushByte (hiByte v) s with
  | .error f => .error f
  | .ok s1 =>
    match pushByte (midByte v) s1 with
    | .error f => .error f
    | .ok s2 => pushByte (loByte v) s2

/-- `pop24()` (R56): the low byte first. -/
def pop24 (s : State) : Except Fault (Addr × State) :=
  match popByte s with
  | .error f => .error f
  | .ok (l, s1) =>
    match popByte s1 with
    | .error f => .error f
    | .ok (m, s2) =>
      match popByte s2 with
      | .error f => .error f
      | .ok (h, s3) => .ok (addrOfBytes l m h, s3)

/-- Push the address of the next instruction and go to `target`: CALL and RST (R122, R135). -/
def callTo (target : Addr) (s : State) : Outcome :=
  match push24 s.pc s with
  | .error f => .fault f
  | .ok t => .next (t.setPc target)

/-! ### Interrupts -/

/-- The target of a mode 2 acceptance (R158): `IM2_TARGET` of the 16-bit value formed and of the bytes it reads; stuck on the
first read that the platform does not admit (R60). -/
def im2Entry (device : Byte) (s : State) : Except Fault Addr :=
  match readBytes (Config.im2Reads (im2Word s.i device)) s with
  | .error f => .error f
  | .ok bytes => .ok (Config.im2Target (im2Word s.i device) bytes)

/-- The common entry of every accepted interrupt (R155), to a target found before the push: refused while `MADL = 1` (R161,
log 12), stuck where finding the target is; it ends HALT and SLP (R167), clears `EI_SHADOW`, pushes the boundary `PC` and goes
to the routine. -/
def enterInterrupt (target : Except Fault Addr) (s : State) : Outcome :=
  if s.madl then .refused .mixedModeAcceptance
  else
    match target with
    | .error f => .fault f
    | .ok a => callTo a ((s.setRun .running).setEiShadow false)

/-- Accepting a maskable interrupt (R159): both interrupt flags are reset, then the mode gives the target: a restart that the
device inserts (mode 0, R157), `$000038` (mode 1, R156), or what `IM2_TARGET` gives (mode 2, R158). -/
def acceptInt (device : Byte) (s : State) : Outcome :=
  let t := (s.setIef1 false).setIef2 false
  match s.im with
  | .mode0 =>
    match insertedRst device with
    | some r => enterInterrupt (.ok (restartTarget r)) t
    | none => .refused (.im0Instruction device)
  | .mode1 => enterInterrupt (.ok 0x000038#24) t
  | .mode2 => enterInterrupt (im2Entry device s) t

/-- Accepting a nonmaskable interrupt (R160): `IEF1` is reset; `IEF2` receives its old value or stays, as `NMI_IEF2` says. -/
def acceptNmi (s : State) : Outcome :=
  enterInterrupt (.ok Config.nmiVector) ((s.setIef1 false).setIef2 (if Config.nmiCopiesIef1 then s.ief1 else s.ief2))

/-- The return: the top stack value is popped into `PC` (R132, R133). It ends a CALL, an RST and a maskable routine alike. -/
def returnTop (s : State) : Outcome :=
  match pop24 s with
  | .error f => .fault f
  | .ok (v, t) => .next (t.setPc v)

/-- The return from a nonmaskable routine (R134): the pop, and `IEF2` is copied back into `IEF1`. -/
def returnFromNmi (s : State) : Outcome :=
  match pop24 s with
  | .error f => .fault f
  | .ok (v, t) => .next ((t.setPc v).setIef1 t.ief2)

/-! ### Reset and the inputs -/

/-- The reset event (R190): every register, flag and control bit takes its value after reset (`RESET_STATE`, log 4); memory, the
inputs to come and the platform are not the CPU's to change. -/
def takeReset (s : State) : State :=
  ((State.reset.setMem s.mem).setInputs s.inputs).setUnbacked s.unbacked

/-- What the environment presents at this boundary (R34); nothing past the end of the list (log 5). -/
def State.input (s : State) : Input :=
  match s.inputs with
  | [] => Input.quiet
  | x :: _ => x

/-- The state with this boundary's input taken. -/
def State.takeInput (s : State) : State := s.setInputs s.inputs.tail

end Sys2Proof.Machine
end

