-- ==== Sys2Proof/Machine/Fetch.lean ====
section
/-! DEFINITION. Instruction fetch (20_memory.md R54; 30_encoding.md R79), and the placing of bytes where the next fetch reads. -/

namespace Sys2Proof.Machine

/-- `fetch8()` (R54): the byte at `PC`, and `PC` advances modulo 2^24. -/
def fetch8 (s : State) : Except Fault (Byte × State) :=
  match readByte .fetch s.pc s with
  | .error f => .error f
  | .ok v => .ok (v, s.setPc (s.pc + 1#24))

/-- `n` bytes fetched one after the other, in ascending address order (R54). -/
def fetchBytes : Nat → State → Except Fault (List Byte × State)
  | 0, s => .ok ([], s)
  | n + 1, s =>
    match fetch8 s with
    | .error f => .error f
    | .ok (v, s1) =>
      match fetchBytes n s1 with
      | .error f => .error f
      | .ok (vs, s2) => .ok (v :: vs, s2)

/-- The bytes of the instruction at `PC`, exactly as many as its first byte says (R79), and the state with `PC` past them. -/
def fetchInstr (s : State) : Except Fault (List Byte × State) :=
  match fetch8 s with
  | .error f => .error f
  | .ok (b0, s1) =>
    match fetchBytes (lengthOfFirst b0 - 1) s1 with
    | .error f => .error f
    | .ok (vs, s2) => .ok (b0 :: vs, s2)

/-- The memory with bytes placed from an address on, at ascending addresses modulo 2^24. -/
def Memory.place : List Byte → Addr → Memory → Memory
  | [], _, m => m
  | v :: vs, a, m => Memory.place vs (a + 1#24) (m.write a v)

end Sys2Proof.Machine
end

