-- ==== Sys2Proof/Machine/Flags.lean ====
section
/-! DEFINITION. The flag computations: what a condition tests (41_program_control.md R120), and CCF and SCF
(40_processor_control.md R100, R107). No other instruction writes a flag (R26). -/

namespace Sys2Proof.Machine

/-- `cond(cc)`: the truth of a condition in the flags (R120). -/
def condHolds (cc : Cond) (f : Flags) : Bool :=
  match cc with
  | .nz => !f.z
  | .z => f.z
  | .nc => !f.c
  | .c => f.c
  | .po => !f.pv
  | .pe => f.pv
  | .p => !f.s
  | .m => f.s

/-- The flags after CCF: H receives the old carry, N is reset, C is inverted; Z, PV and S stay (R100, R8). -/
def complementCarry (f : Flags) : Flags := { f with h := f.c, n := false, c := !f.c }

/-- The flags after SCF: H and N are reset, C is set; Z, PV and S stay (R107, R8). -/
def setCarry (f : Flags) : Flags := { f with h := false, n := false, c := true }

end Sys2Proof.Machine
end

