-- ==== Sys2Proof/Machine/ProcessorControl.lean ====
section
/-! DEFINITION. The meanings of the processor-control instructions (40_processor_control.md). Each runs after its bytes are
fetched, so `PC` is already past them; the step clears `EI_SHADOW` after every one but EI (R152). -/

namespace Sys2Proof.Machine

/-- CCF (R100). -/
def execCcf (s : State) : Outcome := .next (s.setFlags (complementCarry s.flags))

/-- DI (R101). -/
def execDi (s : State) : Outcome := .next ((s.setIef1 false).setIef2 false)

/-- EI (R102): `EI_SHADOW` receives the open parameter `EI_DELAY`. -/
def execEi (s : State) : Outcome := .next (((s.setIef1 true).setIef2 true).setEiShadow Config.eiDelay)

/-- HALT (R103). -/
def execHalt (s : State) : Outcome := .next (s.setRun .halted)

/-- IM 0 (R104). -/
def execIm0 (s : State) : Outcome := .next (s.setIm .mode0)

/-- IM 1 (R104). -/
def execIm1 (s : State) : Outcome := .next (s.setIm .mode1)

/-- IM 2 (R104). -/
def execIm2 (s : State) : Outcome := .next (s.setIm .mode2)

/-- NOP (R105). -/
def execNop (s : State) : Outcome := .next s

/-- RSMIX (R106). -/
def execRsmix (s : State) : Outcome := .next (s.setMadl false)

/-- SCF (R107). -/
def execScf (s : State) : Outcome := .next (s.setFlags (setCarry s.flags))

/-- SLP (R108). -/
def execSlp (s : State) : Outcome := .next (s.setRun .sleeping)

/-- STMIX (R109). -/
def execStmix (s : State) : Outcome := .next (s.setMadl true)

end Sys2Proof.Machine
end

