-- ==== Sys2Proof/Machine/ProgramControl.lean ====
section
/-! DEFINITION. The meanings of the program-control instructions (41_program_control.md). Each runs after its bytes are fetched,
so `PC` is already the address of the following instruction. -/

namespace Sys2Proof.Machine

/-- `call cc, imm24` (R121). -/
def execCallCc (cc : Cond) (imm24 : Addr) (s : State) : Outcome :=
  if condHolds cc s.flags then callTo imm24 s else .next s

/-- `call imm24` (R122). -/
def execCall (imm24 : Addr) (s : State) : Outcome := callTo imm24 s

/-- `djnz ofs8` (R123): `B` is decremented modulo 256, then tested. -/
def execDjnz (ofs8 : Byte) (s : State) : Outcome :=
  if s.b - 1#8 = 0#8 then .next (s.setB (s.b - 1#8))
  else .next ((s.setB (s.b - 1#8)).setPc (relTarget s.pc ofs8))

/-- `jp (hl)` (R124): the register's own value; no memory is read. -/
def execJpHl (s : State) : Outcome := .next (s.setPc s.hl)

/-- `jp cc, imm24` (R125, C3). -/
def execJpCc (cc : Cond) (imm24 : Addr) (s : State) : Outcome :=
  if condHolds cc s.flags then .next (s.setPc imm24) else .next s

/-- `jp imm24` (R126). -/
def execJp (imm24 : Addr) (s : State) : Outcome := .next (s.setPc imm24)

/-- `jp (ix)` (R127). -/
def execJpIx (s : State) : Outcome := .next (s.setPc s.ix)

/-- `jp (iy)` (R128). -/
def execJpIy (s : State) : Outcome := .next (s.setPc s.iy)

/-- `jr ofs8` (R129). -/
def execJr (ofs8 : Byte) (s : State) : Outcome := .next (s.setPc (relTarget s.pc ofs8))

/-- `jr cc, ofs8` (R130). The decoder gives NZ, Z, NC and C only (R73); a term with another condition is no instruction of the
hardware (log 24). -/
def execJrCc (cc : Cond) (ofs8 : Byte) (s : State) : Outcome :=
  if condHolds cc s.flags then .next (s.setPc (relTarget s.pc ofs8)) else .next s

/-- `ret cc` (R131). -/
def execRetCc (cc : Cond) (s : State) : Outcome :=
  if condHolds cc s.flags then returnTop s else .next s

/-- `ret` (R132). -/
def execRet (s : State) : Outcome := returnTop s

/-- `reti` (R133): the pop of `ret`; the interrupt flags are not written. -/
def execReti (s : State) : Outcome := returnTop s

/-- `retn` (R134). -/
def execRetn (s : State) : Outcome := returnFromNmi s

/-- `rst imm8` (R135). -/
def execRst (t : BitVec 3) (s : State) : Outcome := callTo (restartTarget t) s

end Sys2Proof.Machine
end

