-- ==== Sys2Proof/Machine/Dispatch.lean ====
section
/-! DEFINITION. One arm per constructor of Instr (30_encoding.md R80), each a call of the instruction's meaning. -/

namespace Sys2Proof.Machine

def exec (i : Instr) (s : State) : Host.Outcome State Fault Refusal :=
  match i with
  | .ccf => Sys2Proof.Machine.execCcf s
  | .di => Sys2Proof.Machine.execDi s
  | .ei => Sys2Proof.Machine.execEi s
  | .halt => Sys2Proof.Machine.execHalt s
  | .im0 => Sys2Proof.Machine.execIm0 s
  | .im1 => Sys2Proof.Machine.execIm1 s
  | .im2 => Sys2Proof.Machine.execIm2 s
  | .nop => Sys2Proof.Machine.execNop s
  | .rsmix => Sys2Proof.Machine.execRsmix s
  | .scf => Sys2Proof.Machine.execScf s
  | .slp => Sys2Proof.Machine.execSlp s
  | .stmix => Sys2Proof.Machine.execStmix s
  | .callCc cc imm24 => Sys2Proof.Machine.execCallCc cc imm24 s
  | .call imm24 => Sys2Proof.Machine.execCall imm24 s
  | .djnz ofs8 => Sys2Proof.Machine.execDjnz ofs8 s
  | .jpHl => Sys2Proof.Machine.execJpHl s
  | .jpCc cc imm24 => Sys2Proof.Machine.execJpCc cc imm24 s
  | .jp imm24 => Sys2Proof.Machine.execJp imm24 s
  | .jpIx => Sys2Proof.Machine.execJpIx s
  | .jpIy => Sys2Proof.Machine.execJpIy s
  | .jr ofs8 => Sys2Proof.Machine.execJr ofs8 s
  | .jrCc cc ofs8 => Sys2Proof.Machine.execJrCc cc ofs8 s
  | .retCc cc => Sys2Proof.Machine.execRetCc cc s
  | .ret => Sys2Proof.Machine.execRet s
  | .reti => Sys2Proof.Machine.execReti s
  | .retn => Sys2Proof.Machine.execRetn s
  | .rst t => Sys2Proof.Machine.execRst t s

end Sys2Proof.Machine
end

