-- ==== Sys2Proof/Machine/Cycle.lean ====
section
/-! DEFINITION. The step rule of the CPU (60_exceptions.md R152): what happens at an instruction boundary. -/

namespace Sys2Proof.Machine

/-- After the instruction: every one but EI clears `EI_SHADOW` (R152, R33). -/
def settle (i : Instr) (o : Outcome) : Outcome :=
  match o with
  | .next t => if i = .ei then .next t else .next (t.setEiShadow false)
  | .fault f => .fault f
  | .refused r => .refused r

/-- Fetch, decode and execute the instruction at `PC` (R152); bytes outside the opcode table are refused (R81). Where a byte is
both not admitted and outside the table, R152 does not say which stop holds; the fetch's does. DESIGN CHOICE (log 25). -/
def runInstr (s : State) : Outcome :=
  match fetchInstr s with
  | .error f => .fault f
  | .ok (bytes, t) =>
    match decode bytes with
    | .error why => .refused (.outsideTable why)
    | .ok (i, _) => settle i (exec i t)

/-- Whether a maskable interrupt is accepted when neither RESET nor NMI is presented (R153). -/
def acceptsInt (s : State) : Bool := s.input.int && s.ief1 && !s.eiShadow

/-- One step of the CPU at an instruction boundary (R152): RESET over NMI over a maskable interrupt over the next instruction; a
suspended CPU with nothing to accept does not change. -/
def boundary (s : State) : Outcome :=
  if s.input.reset then .next (takeReset s.takeInput)
  else if s.input.nmi then acceptNmi s.takeInput
  else if acceptsInt s then acceptInt s.input.device s.takeInput
  else if s.run = .running then runInstr s.takeInput
  else .next s.takeInput

end Sys2Proof.Machine
end

