-- ==== Sys2Proof/Machine/Step.lean ====
section
/-! DEFINITION. The step of the machine, and the placing of an instruction where the step fetches. -/

namespace Sys2Proof.Machine

/-- One step: what happens at one instruction boundary (R152). -/
def step (s : State) : Host.Outcome State Fault Refusal := boundary s

/-- The state with the instruction of a table word stored at `PC`, so that the very next step fetches and runs it: the CPU is
running, nothing is requested at the next boundary, and the platform admits the fetch (log 21). -/
def State.withFetchWord (s : State) (nbits w : Nat) : State :=
  (((s.setMem (Memory.place (tableBytes nbits w) s.pc s.mem)).setRun .running).setInputs (Input.quiet :: s.inputs)).setUnbacked
    (s.unbacked.filter (fun r => r.kind ≠ .fetch))

end Sys2Proof.Machine
end

