-- ==== Sys2Proof/Safety.lean ====
section
/-! DEFINITION. The terms in which claims are stated: when an access is admitted, what an entry and a return change, which
states are good, and when a step goes on. -/

namespace Sys2Proof.Machine

/-! ### The opcode map's first and second bytes -/

/-- The 51 first bytes of the map: 48 opcodes and the three that select a second byte (30_encoding.md R80, R81). -/
def firstBytes : List Byte :=
  [0x00#8, 0x10#8, 0x18#8, 0x20#8, 0x28#8, 0x30#8, 0x37#8, 0x38#8, 0x3F#8, 0x76#8, 0xC0#8, 0xC2#8, 0xC3#8, 0xC4#8, 0xC7#8,
    0xC8#8, 0xC9#8, 0xCA#8, 0xCC#8, 0xCD#8, 0xCF#8, 0xD0#8, 0xD2#8, 0xD4#8, 0xD7#8, 0xD8#8] ++
  [0xDA#8, 0xDC#8, 0xDD#8, 0xDF#8, 0xE0#8, 0xE2#8, 0xE4#8, 0xE7#8, 0xE8#8, 0xE9#8, 0xEA#8, 0xEC#8, 0xED#8, 0xEF#8, 0xF0#8,
    0xF2#8, 0xF3#8, 0xF4#8, 0xF7#8, 0xF8#8, 0xFA#8, 0xFB#8, 0xFC#8, 0xFD#8, 0xFF#8]

/-- The eight second bytes after `$ED` (R79). -/
def secondBytesEd : List Byte := [0x45#8, 0x46#8, 0x4D#8, 0x56#8, 0x5E#8, 0x76#8, 0x7D#8, 0x7E#8]

/-! ### Conditions on a state -/

/-- Nothing is accepted at this boundary: no RESET, no NMI, no acceptable maskable interrupt (R152, R153). -/
abbrev State.noEvent (s : State) : Prop :=
  s.input.reset = false ∧ s.input.nmi = false ∧ ¬ (s.input.int = true ∧ s.ief1 = true ∧ s.eiShadow = false)

/-- A maskable interrupt is accepted at this boundary (R153). -/
abbrev State.intAccepted (s : State) : Prop :=
  s.input.reset = false ∧ s.input.nmi = false ∧ s.input.int = true ∧ s.ief1 = true ∧ s.eiShadow = false

/-- A nonmaskable interrupt is accepted at this boundary (R154). -/
abbrev State.nmiAccepted (s : State) : Prop := s.input.reset = false ∧ s.input.nmi = true

/-- The three addresses that a push writes (R55). -/
abbrev State.pushes (s : State) (a : Addr) : Prop := a = s.sp - 1#24 ∨ a = s.sp - 2#24 ∨ a = s.sp - 3#24

/-- The three addresses that a pop reads (R56). -/
abbrev State.pops (s : State) (a : Addr) : Prop := a = s.sp ∨ a = s.sp + 1#24 ∨ a = s.sp + 2#24

/-- The platform admits the three byte writes of a push (R55, R60). -/
abbrev State.pushReady (s : State) : Prop :=
  s.admits .write (s.sp - 1#24) = true ∧ s.admits .write (s.sp - 2#24) = true ∧ s.admits .write (s.sp - 3#24) = true

/-- The platform admits the three byte reads of a pop (R56, R60). -/
abbrev State.popReady (s : State) : Prop :=
  s.admits .read s.sp = true ∧ s.admits .read (s.sp + 1#24) = true ∧ s.admits .read (s.sp + 2#24) = true

/-- The 16-bit value a mode 2 acceptance forms at this boundary: `I[7:0]` above the device's byte (R158). -/
abbrev State.im2Value (s : State) : BitVec 16 := BitVec.ofNat 16 (s.i.toNat % 256 * 256 + s.input.device.toNat)

/-- The platform admits every read of a mode 2 acceptance (R158, R60). -/
abbrev State.tableReady (s : State) : Prop := ∀ a ∈ Config.im2Reads s.im2Value, s.admits .read a = true

/-- Where a maskable interrupt accepted at this boundary goes: in mode 0 where the device inserts an RST, in mode 1 always, in
mode 2 where the platform admits the reads (R156, R157, R158). -/
def State.intTarget (s : State) (target : Addr) : Prop :=
  (s.im = .mode0 ∧ ∃ t : BitVec 3, s.input.device = BitVec.ofNat 8 (0xC7 + 8 * t.toNat) ∧
    target = BitVec.ofNat 24 (8 * t.toNat)) ∨
  (s.im = .mode1 ∧ target = 0x000038#24) ∨
  (s.im = .mode2 ∧ s.tableReady ∧
    target = Config.im2Target s.im2Value ((Config.im2Reads s.im2Value).map s.mem.read))

/-- An interrupt, nonmaskable or maskable, is accepted at this boundary and goes to a target: what is left is to enter it. -/
def State.entersAt (s : State) (target : Addr) : Prop :=
  (s.nmiAccepted ∧ target = Config.nmiVector) ∨ (s.intAccepted ∧ s.intTarget target)

/-- The bytes stand in memory from an address on, at ascending addresses modulo 2^24, and the platform admits fetching them. -/
def State.holdsCode (s : State) : List Byte → Addr → Bool
  | [], _ => true
  | v :: vs, a => decide (s.mem.read a = v) && s.admits .fetch a && s.holdsCode vs (a + 1#24)

/-- The three bytes at `SP`, the low one first: what a pop gives (R56). -/
def State.stackTop (s : State) : Addr := s.mem.read (s.sp + 2#24) ++ s.mem.read (s.sp + 1#24) ++ s.mem.read s.sp

/-! ### What two states share -/

/-- Every byte of memory reads the same. -/
abbrev State.SameMemory (s t : State) : Prop := ∀ a : Addr, t.mem.read a = s.mem.read a

/-- The registers that a push, a call and an interrupt entry leave (R37), and the platform, a field of the model's own (log 6). -/
structure State.SameRegisters (s t : State) : Prop where
  b : t.b = s.b
  hl : t.hl = s.hl
  ix : t.ix = s.ix
  iy : t.iy = s.iy
  i : t.i = s.i
  flags : t.flags = s.flags
  im : t.im = s.im
  madl : t.madl = s.madl
  unbacked : t.unbacked = s.unbacked

/-- The interrupt flags, the run state, the hidden bit, and the inputs to come, a field of the model's own (log 5). -/
structure State.SameControl (s t : State) : Prop where
  ief1 : t.ief1 = s.ief1
  ief2 : t.ief2 = s.ief2
  run : t.run = s.run
  eiShadow : t.eiShadow = s.eiShadow
  inputs : t.inputs = s.inputs

/-- `v` was pushed between `s` and `t` (R55): `SP` is three lower, the three bytes lie little-endian at the new `SP`, and every
other byte reads as before. -/
structure State.Pushed (s t : State) (v : Addr) : Prop where
  sp : t.sp = s.sp - 3#24
  low : t.mem.read (s.sp - 3#24) = v.extractLsb' 0 8
  mid : t.mem.read (s.sp - 2#24) = v.extractLsb' 8 8
  high : t.mem.read (s.sp - 1#24) = v.extractLsb' 16 8
  others : ∀ a : Addr, a ≠ s.sp - 1#24 → a ≠ s.sp - 2#24 → a ≠ s.sp - 3#24 → t.mem.read a = s.mem.read a

/-- What a taken CALL or RST to `target` does from a state whose `PC` is the return address (R122, R135): the push, the
transfer, and nothing else. -/
structure State.Called (s t : State) (target : Addr) : Prop where
  pc : t.pc = target
  pushed : s.Pushed t s.pc
  registers : s.SameRegisters t
  control : s.SameControl t

/-- What every accepted interrupt does (R155): the boundary `PC` is pushed, the CPU runs at `target`, `EI_SHADOW` is cleared; one
input is used up (log 5); the interrupt flags are the acceptance's own. -/
structure State.Interrupted (s t : State) (target : Addr) : Prop where
  pc : t.pc = target
  pushed : s.Pushed t s.pc
  run : t.run = .running
  eiShadow : t.eiShadow = false
  inputs : t.inputs = s.inputs.tail
  registers : s.SameRegisters t

/-! ### Invariants -/

/-- `IEF1 <= IEF2` (R28). -/
abbrev State.iefOrdered (s : State) : Prop := s.ief1 = true → s.ief2 = true

/-- With `EI_DELAY = 0` the hidden bit is constantly 0 (R33). -/
abbrev State.shadowOff (s : State) : Prop := Config.eiDelay = false → s.eiShadow = false

/-- The invariant of every step: memory in canonical form, `IEF1 <= IEF2`, no shadow without the delay. -/
abbrev State.Inv (s : State) : Prop := s.mem.wf ∧ s.iefOrdered ∧ s.shadowOff

/-! ### Safe steps -/

/-- The step goes on: it neither stops on an access nor is refused. -/
def State.goesOn (s : State) : Prop := ∃ t, step s = .next t

end Sys2Proof.Machine
end

