-- ==== Sys2Proof/Certificates/Slice0/Obligations.lean ====
section
/-! DEFINITION. The statements for the provers, from the numbered rules of spec/. Each docstring says what is stated and the
rules it rests on; a clause that rests on a choice of the model names its log entry. -/

open Sys2Proof Sys2Proof.Machine

/-- Words written out from the spec decode to the instructions they stand for. One word of each of the nine formats,
taken from the opcode map, decodes to its instruction with nothing left over. (R80, R85) -/
def Obligations.SpecWordsDecode : Prop :=
  decode [0x3F#8] = .ok (.ccf, []) ∧
  decode [0x37#8] = .ok (.scf, []) ∧
  decode [0xED#8, 0x56#8] = .ok (.im1, []) ∧
  decode [0xED#8, 0x5E#8] = .ok (.im2, []) ∧
  decode [0xED#8, 0x45#8] = .ok (.retn, []) ∧
  decode [0xFC#8, 0x00#8, 0x00#8, 0xD0#8] = .ok (.callCc .m 0xD00000#24, []) ∧
  decode [0xCD#8, 0x56#8, 0x34#8, 0x12#8] = .ok (.call 0x123456#24, []) ∧
  decode [0x10#8, 0xFE#8] = .ok (.djnz 0xFE#8, []) ∧
  decode [0x30#8, 0x05#8] = .ok (.jrCc .nc 0x05#8, []) ∧
  decode [0xFD#8, 0xE9#8] = .ok (.jpIy, []) ∧
  decode [0xE8#8] = .ok (.retCc .pe, []) ∧
  decode [0xEF#8] = .ok (.rst 0b101#3, [])

/-- Decoding an encoded instruction gives it back. For every well-formed instruction, with every operand value, and
any bytes after it: decoding its encoding gives the instruction and those bytes. (R71, R80, R85) -/
def Obligations.DecodeOfEncode : Prop :=
  ∀ (i : Instr) (rest : List Byte), i.wellFormed = true → decode (encode i ++ rest) = .ok (i, rest)

/-- Every instruction the decoder gives is well-formed, and the bytes read are its encoding. Where decoding answers an
instruction, the instruction is well-formed and the bytes are its encoding followed by the rest: no second spelling
exists. (R80, R85) -/
def Obligations.EncodeOfDecode : Prop :=
  ∀ (bytes : List Byte) (i : Instr) (rest : List Byte),
    decode bytes = .ok (i, rest) → i.wellFormed = true ∧ bytes = encode i ++ rest

/-- The decoder refuses every first byte and every second byte outside the map. The 51 first bytes of the map are the
only ones accepted; after $ED only the eight listed second bytes, after $DD and $FD only $E9; each refusal has its
name. (R78, R79, R81) -/
def Obligations.UnlistedBytesRefused : Prop :=
  firstBytes.length = 51 ∧ firstBytes.Nodup ∧
  (∀ (b0 : Byte) (rest : List Byte),
    b0 ∉ firstBytes →
    decode (b0 :: rest) = .error (.firstByte b0)) ∧
  (∀ (b1 : Byte) (rest : List Byte),
    b1 ∉ secondBytesEd →
    decode (0xED#8 :: b1 :: rest) = .error (if b1 = 0x4E#8 then .imField01 else .afterEd b1)) ∧
  (∀ (b0 b1 : Byte) (rest : List Byte), b0 = 0xDD#8 ∨ b0 = 0xFD#8 → b1 ≠ 0xE9#8 →
    decode (b0 :: b1 :: rest) = .error (.afterIndex b0 b1))

/-- The IM mode field 01 is refused. The bytes $ED $4E, whatever follows, are refused by name, and no instruction has
that encoding. (R82) -/
def Obligations.ImField01Refused : Prop :=
  (∀ rest : List Byte, decode (0xED#8 :: 0x4E#8 :: rest) = .error .imField01) ∧
  (∀ i : Instr, encode i ≠ [0xED#8, 0x4E#8])

/-- The machine refuses bytes that are no instruction of the map. With no event at the boundary and the CPU running, a
step that fetches bytes which encode no well-formed instruction is refused as outside the table: no NOP, no trap.
(R81, R152) -/
def Obligations.OutsideTableRefusedByStep : Prop :=
  ∀ (s t : State) (bytes : List Byte), s.noEvent → s.run = .running → fetchInstr s.takeInput = .ok (bytes, t) →
    (∀ i : Instr, i.wellFormed = true → bytes ≠ encode i) → ∃ why, step s = .refused (.outsideTable why)

/-- A fetch reads bytes in ascending address order from PC and leaves PC past them. Where the platform admits every
byte, fetching n bytes gives the bytes at PC, PC+1, ..., modulo 2^24, and changes PC alone, by n. (R54, R20) -/
def Obligations.FetchReadsInOrder : Prop :=
  ∀ (n : Nat) (s : State), (∀ k, k < n → s.admits .fetch (s.pc + BitVec.ofNat 24 k) = true) →
    fetchBytes n s = .ok ((List.range n).map (fun k => s.mem.read (s.pc + BitVec.ofNat 24 k)),
      { s with pc := s.pc + BitVec.ofNat 24 n })

/-- A step runs the decoded instruction. With no event and the CPU running, if the bytes fetched at PC decode to i,
the step is exec of i on the state with the input taken and PC past the bytes; every instruction but EI then clears
EI_SHADOW. That the input is taken from a list of the state is log 5 (DESIGN CHOICE). (R152, R54) -/
def Obligations.StepRunsDecoded : Prop :=
  ∀ (s t : State) (bytes rest : List Byte) (i : Instr), s.noEvent → s.run = .running →
    fetchInstr s.takeInput = .ok (bytes, t) → decode bytes = .ok (i, rest) →
    t = { s with pc := s.pc + BitVec.ofNat 24 bytes.length, inputs := s.inputs.tail } ∧
    step s = (match exec i t with
      | .next u => .next (if i = .ei then u else { u with eiShadow := false })
      | .fault f => .fault f
      | .refused r => .refused r)

/-- An instruction placed in memory in its encoding is what the step runs. For every well-formed instruction whose
encoding stands at PC in fetchable memory: with no event and the CPU running, the step is exec of that instruction
with PC at a + length and one input used up (log 5, DESIGN CHOICE), and then EI_SHADOW cleared for every one but EI.
(R152, R79, R80, R54) -/
def Obligations.StepRunsEncoded : Prop :=
  ∀ (s : State) (i : Instr), i.wellFormed = true → s.noEvent → s.run = .running → s.holdsCode (encode i) s.pc = true →
    step s = (match exec i { s with pc := s.pc + BitVec.ofNat 24 i.length, inputs := s.inputs.tail } with
      | .next u => .next (if i = .ei then u else { u with eiShadow := false })
      | .fault f => .fault f
      | .refused r => .refused r)

/-- A fetch the platform does not admit has no step. With no event and the CPU running: of the bytes at PC, PC+1, ...
that the length of the instruction makes the step fetch (the length its first byte gives; for every instruction that
is the length of its encoding), the first one not admitted is the one the step stops on, under that name. That this
holds too where such a byte is outside the table is the model's choice (log 25, DESIGN CHOICE). (R54, R60, R79, R152)
-/
def Obligations.UnadmittedFetchStops : Prop :=
  (∀ (i : Instr) (b0 : Byte) (rest : List Byte), i.wellFormed = true → encode i = b0 :: rest →
    lengthOfFirst b0 = rest.length + 1) ∧
  ∀ (s : State) (k : Nat), s.noEvent → s.run = .running → k < lengthOfFirst (s.mem.read s.pc) →
    (∀ j, j < k → s.admits .fetch (s.pc + BitVec.ofNat 24 j) = true) →
    s.admits .fetch (s.pc + BitVec.ofNat 24 k) = false →
    step s = .fault (.notAdmitted .fetch (s.pc + BitVec.ofNat 24 k))

/-- CCF and SCF: encoding, flags, and nothing else. CCF ($3F) copies the old carry to H, resets N and inverts C; SCF
($37) resets H and N and sets C; Z, PV, S and all other state stay; neither raises anything. That SCF is $37 is the
spec's choice D9 (log 18). (R100, R107) -/
def Obligations.CcfScfResult : Prop :=
  encode .ccf = [0x3F#8] ∧ encode .scf = [0x37#8] ∧
  ∀ s : State,
    exec .ccf s = .next { s with flags := { s.flags with h := s.flags.c, n := false, c := !s.flags.c } } ∧
    exec .scf s = .next { s with flags := { s.flags with h := false, n := false, c := true } }

/-- DI and EI: encoding, interrupt flags, and when a maskable interrupt is next accepted. DI resets both flags, so
nothing maskable is accepted at the boundary after it; EI sets both and sets EI_SHADOW to EI_DELAY, so acceptance at
the next boundary needs EI_DELAY = 0; acceptance of NMI is untouched by both. (R101, R102, R153) -/
def Obligations.DiEiResult : Prop :=
  encode .di = [0xF3#8] ∧ encode .ei = [0xFB#8] ∧
  ∀ s : State, ∃ t u : State,
    exec .di s = .next t ∧ t = { s with ief1 := false, ief2 := false } ∧
    exec .ei s = .next u ∧ u = { s with ief1 := true, ief2 := true, eiShadow := Config.eiDelay } ∧
    ¬ t.intAccepted ∧ (t.nmiAccepted ↔ s.nmiAccepted) ∧ (u.nmiAccepted ↔ s.nmiAccepted) ∧
    (u.intAccepted ↔
      s.input.reset = false ∧ s.input.nmi = false ∧ s.input.int = true ∧ Config.eiDelay = false)

/-- HALT and SLP suspend the CPU and do nothing else. HALT ($76) sets HALTED, SLP ($ED $76) sets SLEEPING; PC stays
past the instruction and everything else is unchanged. (R103, R108) -/
def Obligations.HaltSlpResult : Prop :=
  encode .halt = [0x76#8] ∧ encode .slp = [0xED#8, 0x76#8] ∧
  ∀ s : State, exec .halt s = .next { s with run := .halted } ∧ exec .slp s = .next { s with run := .sleeping }

/-- IM 0, IM 1, IM 2: encodings, and the interrupt mode they set. The second bytes are $46, $56 and $5E, the field
value 01 ($4E) is no instruction, and each sets its mode and nothing else. (R75, R104) -/
def Obligations.ImResult : Prop :=
  encode .im0 = [0xED#8, 0x46#8] ∧ encode .im1 = [0xED#8, 0x56#8] ∧ encode .im2 = [0xED#8, 0x5E#8] ∧
  (∀ i : Instr, encode i ≠ [0xED#8, 0x4E#8]) ∧
  ∀ s : State, exec .im0 s = .next { s with im := .mode0 } ∧ exec .im1 s = .next { s with im := .mode1 } ∧
    exec .im2 s = .next { s with im := .mode2 }

/-- NOP changes PC alone, modulo 2^24, and clears EI_SHADOW. exec of NOP leaves every field; a step whose PC holds the
byte $00 ends with PC + 1 (modulo 2^24) and EI_SHADOW cleared, and nothing else changed but that one input is used up,
which is the model's own (log 5, DESIGN CHOICE). (R105, R152) -/
def Obligations.NopResult : Prop :=
  encode .nop = [0x00#8] ∧
  (∀ s : State, exec .nop s = .next s) ∧
  (∀ s : State, s.noEvent → s.run = .running → s.holdsCode [0x00#8] s.pc = true →
    step s = .next { s with pc := s.pc + 1#24, eiShadow := false, inputs := s.inputs.tail })

/-- STMIX sets and RSMIX resets the mixed memory mode flag, and nothing else. Encodings $ED $7D and $ED $7E; only MADL
changes. (R106, R109) -/
def Obligations.MixResult : Prop :=
  encode .stmix = [0xED#8, 0x7D#8] ∧ encode .rsmix = [0xED#8, 0x7E#8] ∧
  ∀ s : State, exec .stmix s = .next { s with madl := true } ∧ exec .rsmix s = .next { s with madl := false }

/-- What each condition tests. The eight rows of the condition table with their 3-bit and 2-bit codes, and the reading
of the 3-bit code: bits 2:1 select the flag, bit 0 is its value. (R120) -/
def Obligations.ConditionTable : Prop :=
  (∀ f : Flags,
    (condHolds .nz f = true ↔ f.z = false) ∧ (condHolds .z f = true ↔ f.z = true) ∧
    (condHolds .nc f = true ↔ f.c = false) ∧ (condHolds .c f = true ↔ f.c = true) ∧
    (condHolds .po f = true ↔ f.pv = false) ∧ (condHolds .pe f = true ↔ f.pv = true) ∧
    (condHolds .p f = true ↔ f.s = false) ∧ (condHolds .m f = true ↔ f.s = true)) ∧
  (Cond.code3 .nz = 0b000#3 ∧ Cond.code3 .z = 0b001#3 ∧ Cond.code3 .nc = 0b010#3 ∧ Cond.code3 .c = 0b011#3 ∧
    Cond.code3 .po = 0b100#3 ∧ Cond.code3 .pe = 0b101#3 ∧ Cond.code3 .p = 0b110#3 ∧ Cond.code3 .m = 0b111#3) ∧
  (Cond.code2 .nz = 0b00#2 ∧ Cond.code2 .z = 0b01#2 ∧ Cond.code2 .nc = 0b10#2 ∧ Cond.code2 .c = 0b11#2) ∧
  ∀ (cc : Cond) (f : Flags),
    condHolds cc f =
      ((if cc.code3.extractLsb' 1 2 = 0b00#2 then f.z
        else if cc.code3.extractLsb' 1 2 = 0b01#2 then f.c
        else if cc.code3.extractLsb' 1 2 = 0b10#2 then f.pv
        else f.s) == cc.code3.getLsbD 0)

/-- DJNZ decrements B modulo 256 and branches unless B becomes 0. From B = 1 the branch is not taken and B is 0; from
any other B, 0 included, it is taken to the following address plus the signed displacement, modulo 2^24; no flag and
nothing else changes. (R123) -/
def Obligations.DjnzResult : Prop :=
  (∀ d : Byte, encode (.djnz d) = [0x10#8, d]) ∧
  ∀ (s : State) (d : Byte),
    (s.b = 1#8 → exec (.djnz d) s = .next { s with b := 0#8 }) ∧
    (s.b ≠ 1#8 → exec (.djnz d) s = .next { s with
      b := BitVec.ofNat 8 (s.b.toNat + 255), pc := BitVec.ofInt 24 (s.pc.toNat + d.toInt) }) ∧
    (s.b = 0#8 → BitVec.ofNat 8 (s.b.toNat + 255) = 0xFF#8)

/-- jp (hl), jp (ix), jp (iy) load PC with the register itself. PC receives all 24 bits of HL, IX or IY, whatever
memory holds and whatever the platform admits; nothing else changes. (R124, R127, R128) -/
def Obligations.JpRegisterResult : Prop :=
  encode .jpHl = [0xE9#8] ∧ encode .jpIx = [0xDD#8, 0xE9#8] ∧ encode .jpIy = [0xFD#8, 0xE9#8] ∧
  ∀ s : State, exec .jpHl s = .next { s with pc := s.hl } ∧ exec .jpIx s = .next { s with pc := s.ix } ∧
    exec .jpIy s = .next { s with pc := s.iy }

/-- jp imm24 and jp cc, imm24. PC receives imm24, always or if the condition holds; otherwise PC stays past the four
bytes; the three operand bytes are imm24 little-endian; nothing else changes. (R125, R126) -/
def Obligations.JpAbsoluteResult : Prop :=
  (∀ a : Addr, encode (.jp a) = [0xC3#8, a.extractLsb' 0 8, a.extractLsb' 8 8, a.extractLsb' 16 8]) ∧
  (∀ (cc : Cond) (a : Addr), encode (.jpCc cc a) =
    [0xC2#8 + 8#8 * cc.code3.setWidth 8, a.extractLsb' 0 8, a.extractLsb' 8 8, a.extractLsb' 16 8]) ∧
  ∀ (s : State) (a : Addr), exec (.jp a) s = .next { s with pc := a } ∧
    ∀ cc : Cond, exec (.jpCc cc a) s = .next (if condHolds cc s.flags = true then { s with pc := a } else s)

/-- jr ofs8 and jr cc, ofs8. PC, the address of the following instruction, receives itself plus the signed
displacement modulo 2^24, always or if the condition holds; nothing else changes. jr has the four conditions NZ, Z,
NC, C. (R129, R130) -/
def Obligations.JrResult : Prop :=
  (∀ d : Byte, encode (.jr d) = [0x18#8, d]) ∧
  (∀ d : Byte, encode (.jrCc .nz d) = [0x20#8, d] ∧ encode (.jrCc .z d) = [0x28#8, d] ∧
    encode (.jrCc .nc d) = [0x30#8, d] ∧ encode (.jrCc .c d) = [0x38#8, d]) ∧
  (∀ (cc : Cond) (d : Byte), (Instr.jrCc cc d).wellFormed = true ↔ cc = .nz ∨ cc = .z ∨ cc = .nc ∨ cc = .c) ∧
  ∀ (s : State) (d : Byte),
    exec (.jr d) s = .next { s with pc := BitVec.ofInt 24 (s.pc.toNat + d.toInt) } ∧
    ∀ cc : Cond, (Instr.jrCc cc d).wellFormed = true →
      exec (.jrCc cc d) s =
        .next (if condHolds cc s.flags = true then { s with pc := BitVec.ofInt 24 (s.pc.toNat + d.toInt) } else s)

/-- call imm24 pushes the address of the following instruction and goes to imm24. Where the platform admits the three
writes, CALL goes on: PC is imm24, SP is three lower modulo 2^24, the three bytes hold the return address little-
endian, every other byte of memory and every other field is unchanged. (R122) -/
def Obligations.CallResult : Prop :=
  (∀ a : Addr, encode (.call a) = [0xCD#8, a.extractLsb' 0 8, a.extractLsb' 8 8, a.extractLsb' 16 8]) ∧
  ∀ (s : State) (a : Addr), s.pushReady → ∃ t : State, exec (.call a) s = .next t ∧ s.Called t a

/-- call cc, imm24. If the condition holds the instruction does what call imm24 does, stops included, and goes on
where the three writes are admitted; if not, it changes nothing (PC is past the four bytes). (R121) -/
def Obligations.CallCcResult : Prop :=
  (∀ (cc : Cond) (a : Addr), encode (.callCc cc a) =
    [0xC4#8 + 8#8 * cc.code3.setWidth 8, a.extractLsb' 0 8, a.extractLsb' 8 8, a.extractLsb' 16 8]) ∧
  ∀ (s : State) (cc : Cond) (a : Addr),
    (condHolds cc s.flags = false → exec (.callCc cc a) s = .next s) ∧
    (condHolds cc s.flags = true → exec (.callCc cc a) s = exec (.call a) s) ∧
    (condHolds cc s.flags = true → s.pushReady → ∃ t : State, exec (.callCc cc a) s = .next t ∧ s.Called t a)

/-- rst imm8 calls the restart address t * 8. The eight opcode bytes and targets are those of the table, the opcode
being $C7 + 8t; where the three writes are admitted RST goes on as a call of t * 8 zero-extended. (R74, R135) -/
def Obligations.RstResult : Prop :=
  (∀ t : BitVec 3, encode (.rst t) = [BitVec.ofNat 8 (0xC7 + 8 * t.toNat)]) ∧
  ∀ (s : State) (t : BitVec 3), s.pushReady →
    ∃ u : State, exec (.rst t) s = .next u ∧ s.Called u (BitVec.ofNat 24 (8 * t.toNat))

/-- ret and reti pop the top stack value into PC and do nothing else. Where the platform admits the three reads: PC is
the value at SP, little-endian, SP is three higher modulo 2^24, and memory, the interrupt flags and everything else is
unchanged; RETI is the same as RET. (R132, R133) -/
def Obligations.RetResult : Prop :=
  encode .ret = [0xC9#8] ∧ encode .reti = [0xED#8, 0x4D#8] ∧
  ∀ s : State, s.popReady →
    exec .ret s = .next { s with pc := s.stackTop, sp := s.sp + 3#24 } ∧
    exec .reti s = .next { s with pc := s.stackTop, sp := s.sp + 3#24 }

/-- ret cc. If the condition holds the instruction does what ret does, stops included, and goes on where the three
reads are admitted; if not, it changes nothing. (R131) -/
def Obligations.RetCcResult : Prop :=
  (∀ cc : Cond, encode (.retCc cc) = [0xC0#8 + 8#8 * cc.code3.setWidth 8]) ∧
  ∀ (s : State) (cc : Cond),
    (condHolds cc s.flags = false → exec (.retCc cc) s = .next s) ∧
    (condHolds cc s.flags = true → exec (.retCc cc) s = exec .ret s) ∧
    (condHolds cc s.flags = true → s.popReady →
      exec (.retCc cc) s = .next { s with pc := s.stackTop, sp := s.sp + 3#24 })

/-- retn pops PC and copies IEF2 into IEF1, at once. Where the three reads are admitted: PC is the value at SP, SP is
three higher, IEF1 is IEF2, all else is unchanged; with no shadow a maskable request is then acceptable exactly if
IEF2 was 1. (R134, R153) -/
def Obligations.RetnResult : Prop :=
  encode .retn = [0xED#8, 0x45#8] ∧
  ∀ s : State, s.popReady → ∃ t : State,
    exec .retn s = .next t ∧ t = { s with pc := s.stackTop, sp := s.sp + 3#24, ief1 := s.ief2 } ∧
    (s.eiShadow = false → (t.intAccepted ↔
      s.input.reset = false ∧ s.input.nmi = false ∧ s.input.int = true ∧ s.ief2 = true))

/-- A push the platform does not admit has no step. CALL, a taken CALL cc, RST, and a step that accepts an interrupt
(an NMI, or a maskable one in mode 0 with an inserted RST, in mode 1, or in mode 2 with its reads admitted; MADL = 0)
stop under the name of the first of their three writes, at SP-1, SP-2, SP-3 in that order, that the platform does not
admit. (R55, R58, R60, R155) -/
def Obligations.PushStops : Prop :=
  (∀ (s : State) (i : Instr),
    ((∃ a, i = .call a) ∨ (∃ cc a, i = .callCc cc a ∧ condHolds cc s.flags = true) ∨ (∃ t, i = .rst t)) →
    (s.admits .write (s.sp - 1#24) = false → exec i s = .fault (.notAdmitted .write (s.sp - 1#24))) ∧
    (s.admits .write (s.sp - 1#24) = true → s.admits .write (s.sp - 2#24) = false →
      exec i s = .fault (.notAdmitted .write (s.sp - 2#24))) ∧
    (s.admits .write (s.sp - 1#24) = true → s.admits .write (s.sp - 2#24) = true →
      s.admits .write (s.sp - 3#24) = false → exec i s = .fault (.notAdmitted .write (s.sp - 3#24)))) ∧
  (∀ (s : State) (target : Addr), s.madl = false → s.entersAt target →
    (s.admits .write (s.sp - 1#24) = false → step s = .fault (.notAdmitted .write (s.sp - 1#24))) ∧
    (s.admits .write (s.sp - 1#24) = true → s.admits .write (s.sp - 2#24) = false →
      step s = .fault (.notAdmitted .write (s.sp - 2#24))) ∧
    (s.admits .write (s.sp - 1#24) = true → s.admits .write (s.sp - 2#24) = true →
      s.admits .write (s.sp - 3#24) = false → step s = .fault (.notAdmitted .write (s.sp - 3#24))))

/-- A pop the platform does not admit has no step. RET, a taken RET cc, RETI and RETN stop under the name of the first
of their three reads, at SP, SP+1, SP+2 in that order, that the platform does not admit. (R56, R60) -/
def Obligations.PopStops : Prop :=
  ∀ (s : State) (i : Instr),
    (i = .ret ∨ i = .reti ∨ i = .retn ∨ ∃ cc, i = .retCc cc ∧ condHolds cc s.flags = true) →
    (s.admits .read s.sp = false → exec i s = .fault (.notAdmitted .read s.sp)) ∧
    (s.admits .read s.sp = true → s.admits .read (s.sp + 1#24) = false →
      exec i s = .fault (.notAdmitted .read (s.sp + 1#24))) ∧
    (s.admits .read s.sp = true → s.admits .read (s.sp + 1#24) = true →
      s.admits .read (s.sp + 2#24) = false → exec i s = .fault (.notAdmitted .read (s.sp + 2#24)))

/-- No instruction is refused, and an instruction stops only on a stack access the platform does not admit. For every
instruction and every state, in any mode: exec never refuses; if it stops, the stop is one of two: a write at SP-1,
SP-2 or SP-3 that the platform does not admit, of CALL, RST or a CALL cc whose condition holds; or a read at SP, SP+1
or SP+2 that it does not admit, of RET, RETI, RETN or a RET cc whose condition holds. (R150, R55, R56, R60, R168) -/
def Obligations.NoSynchronousException : Prop :=
  ∀ (i : Instr) (s : State),
    (∀ r, exec i s ≠ .refused r) ∧
    ∀ f, exec i s = .fault f →
      (∃ a, (a = s.sp - 1#24 ∨ a = s.sp - 2#24 ∨ a = s.sp - 3#24) ∧ f = .notAdmitted .write a ∧ s.admits .write a = false ∧
        ((∃ x, i = .call x) ∨ (∃ cc x, i = .callCc cc x ∧ condHolds cc s.flags = true) ∨ (∃ t, i = .rst t))) ∨
      (∃ a, (a = s.sp ∨ a = s.sp + 1#24 ∨ a = s.sp + 2#24) ∧ f = .notAdmitted .read a ∧ s.admits .read a = false ∧
        (i = .ret ∨ i = .reti ∨ i = .retn ∨ ∃ cc, i = .retCc cc ∧ condHolds cc s.flags = true))

/-- Which instruction writes which register, flag and control bit. Over all instructions that go on: B is DJNZ's, the
flags are those of CCF and SCF (C, H, N alone), IEF1 is that of DI, EI, RETN, IEF2 that of DI, EI, IM that of IM, MADL
that of STMIX and RSMIX, RUN that of HALT and SLP, SP that of pushes and pops; HL, IX, IY and I are nobody's. That
exec writes EI_SHADOW for EI alone is log 23 (DESIGN CHOICE: the step clears it for every other instruction, as R37
says); that the platform and the inputs are fields, which no instruction writes, is logs 6 and 5 (DESIGN CHOICE).
(R35, R37, R26, R28) -/
def Obligations.RegisterFrame : Prop :=
  ∀ (i : Instr) (s t : State), exec i s = .next t →
    t.hl = s.hl ∧ t.ix = s.ix ∧ t.iy = s.iy ∧ t.i = s.i ∧ t.unbacked = s.unbacked ∧ t.inputs = s.inputs ∧
    t.flags.z = s.flags.z ∧ t.flags.pv = s.flags.pv ∧ t.flags.s = s.flags.s ∧
    ((∀ d, i ≠ .djnz d) → t.b = s.b) ∧
    (i ≠ .ccf → i ≠ .scf → t.flags = s.flags) ∧
    (i ≠ .di → i ≠ .ei → i ≠ .retn → t.ief1 = s.ief1) ∧
    (i ≠ .di → i ≠ .ei → t.ief2 = s.ief2) ∧
    (i ≠ .im0 → i ≠ .im1 → i ≠ .im2 → t.im = s.im) ∧
    (i ≠ .stmix → i ≠ .rsmix → t.madl = s.madl) ∧
    (i ≠ .halt → i ≠ .slp → t.run = s.run) ∧
    (i ≠ .ei → t.eiShadow = s.eiShadow) ∧
    ((∀ a, i ≠ .call a) → (∀ cc a, i ≠ .callCc cc a) → (∀ r, i ≠ .rst r) → i ≠ .ret → (∀ cc, i ≠ .retCc cc) →
      i ≠ .reti → i ≠ .retn → t.sp = s.sp)

/-- Instructions store only on the stack, and only those that push. Over all instructions that go on: a byte outside
the three below SP reads as before; every byte reads as before unless the instruction is CALL, RST or a CALL cc whose
condition holds. (R37, R55, R58) -/
def Obligations.MemoryFrame : Prop :=
  ∀ (i : Instr) (s t : State), exec i s = .next t →
    (∀ a : Addr, a ≠ s.sp - 1#24 → a ≠ s.sp - 2#24 → a ≠ s.sp - 3#24 → t.mem.read a = s.mem.read a) ∧
    ((∀ x, i ≠ .call x) → (∀ cc x, i = .callCc cc x → condHolds cc s.flags = false) → (∀ r, i ≠ .rst r) → s.SameMemory t)

/-- SP moves by three, down on a push and up on a pop. Over all instructions that go on: CALL and RST leave SP - 3,
RET, RETI and RETN leave SP + 3, the conditional forms do so exactly if the condition holds, and every other
instruction leaves SP. (R21, R55, R56, R58) -/
def Obligations.StackPointerFrame : Prop :=
  ∀ (i : Instr) (s t : State), exec i s = .next t →
    t.sp = (match i with
      | .call _ | .rst _ => s.sp - 3#24
      | .callCc cc _ => if condHolds cc s.flags = true then s.sp - 3#24 else s.sp
      | .ret | .reti | .retn => s.sp + 3#24
      | .retCc cc => if condHolds cc s.flags = true then s.sp + 3#24 else s.sp
      | _ => s.sp)

/-- No instruction rule depends on the mixed memory mode flag. For every instruction but STMIX and RSMIX, exec with
MADL set to either value is exec without, with MADL so set in the next state. (R30, R109) -/
def Obligations.MadlIrrelevantToInstructions : Prop :=
  ∀ (i : Instr) (s : State) (m : Bool), i ≠ .stmix → i ≠ .rsmix →
    exec i { s with madl := m } = (match exec i s with
      | .next t => .next { t with madl := m }
      | .fault f => .fault f
      | .refused r => .refused r)

/-- A ret that follows a call pops exactly the address that was pushed. Where the platform admits the writes and the
reads of the three bytes below SP: CALL goes on, and a RET, from wherever the called code has gone, goes on to the
return address with SP as before the CALL. (R61, R56, R122, R132) -/
def Obligations.CallThenReturn : Prop :=
  ∀ (s : State) (a : Addr), s.pushReady → s.admits .read (s.sp - 1#24) = true → s.admits .read (s.sp - 2#24) = true →
    s.admits .read (s.sp - 3#24) = true →
    ∃ t : State, exec (.call a) s = .next t ∧
      ∀ p : Addr, ∃ u : State, exec .ret { t with pc := p } = .next u ∧ u.pc = s.pc ∧ u.sp = s.sp

/-- A maskable interrupt in mode 1 is a restart to $000038 with both interrupt flags reset. Where it is accepted with
IM = 1, MADL = 0 and the writes admitted, in any run state: PC is $000038, the boundary PC is pushed, both flags are
reset, the CPU runs, EI_SHADOW is cleared, nothing else changes but that one input is used up (log 5, DESIGN CHOICE;
the platform's place in the state is log 6). (R153, R155, R156, R159) -/
def Obligations.MaskableMode1 : Prop :=
  ∀ s : State, s.intAccepted → s.im = .mode1 → s.madl = false → s.pushReady →
    ∃ t : State, step s = .next t ∧ s.Interrupted t 0x000038#24 ∧ t.ief1 = false ∧ t.ief2 = false

/-- A maskable interrupt in mode 0 whose device inserts RST goes to its restart address. Where it is accepted with IM
= 0, MADL = 0, the writes admitted and the device byte 11 ttt 111: PC is t * 8, the boundary PC (not PC + 1) is
pushed, both flags are reset. That the device gives one byte is log 11, that one input is used up is log 5, the
platform's place in the state is log 6 (all DESIGN CHOICE). (R153, R155, R157, R159) -/
def Obligations.MaskableMode0 : Prop :=
  ∀ (s : State) (t : BitVec 3), s.intAccepted → s.im = .mode0 → s.madl = false → s.pushReady →
    s.input.device = BitVec.ofNat 8 (0xC7 + 8 * t.toNat) →
    ∃ u : State, step s = .next u ∧ s.Interrupted u (BitVec.ofNat 24 (8 * t.toNat)) ∧ u.ief1 = false ∧ u.ief2 = false

/-- A maskable interrupt in mode 0 whose device inserts anything else is refused. Where it is accepted with IM = 0 and
the device byte is not a one-byte RST, the step is refused under that name with the byte. That the device gives one
byte is log 11 (DESIGN CHOICE); that the byte is named although MADL may be 1, where R161 refuses as well, is the
precedence of log 12 (DEDUCED). (R157) -/
def Obligations.MaskableMode0Refused : Prop :=
  ∀ s : State, s.intAccepted → s.im = .mode0 → (∀ t : BitVec 3, s.input.device ≠ BitVec.ofNat 8 (0xC7 + 8 * t.toNat)) →
    step s = .refused (.im0Instruction s.input.device)

/-- A maskable interrupt in mode 2 goes where IM2_TARGET says for I[7:0] above the device byte. Where it is accepted
with IM = 2, MADL = 0, and the reads and the writes admitted: PC is IM2_TARGET (which addresses it reads and what it
gives are free, log 10) of the 16-bit value formed and the bytes read, the boundary PC is pushed, both flags are
reset. That one input is used up is log 5, the platform's place in the state is log 6 (both DESIGN CHOICE). (R25,
R153, R155, R158, R159) -/
def Obligations.MaskableMode2 : Prop :=
  ∀ s : State, s.intAccepted → s.im = .mode2 → s.madl = false → s.tableReady → s.pushReady →
    ∃ t : State, step s = .next t ∧
      s.Interrupted t (Config.im2Target (BitVec.ofNat 16 (s.i.toNat % 256 * 256 + s.input.device.toNat))
        ((Config.im2Reads (BitVec.ofNat 16 (s.i.toNat % 256 * 256 + s.input.device.toNat))).map s.mem.read)) ∧
      t.ief1 = false ∧ t.ief2 = false

/-- A nonmaskable interrupt is accepted whatever the enables, mode and shadow, and goes to NMI_VECTOR. Where RESET is
not presented, MADL = 0 and the writes are admitted: PC is NMI_VECTOR (free, log 8), the boundary PC is pushed, IEF1
is reset, IEF2 is the old IEF1 or unchanged as NMI_IEF2 (free, log 9) says. That one input is used up is log 5, the
platform's place in the state is log 6 (both DESIGN CHOICE). (R154, R155, R160) -/
def Obligations.NmiAccepted : Prop :=
  ∀ s : State, s.nmiAccepted → s.madl = false → s.pushReady →
    ∃ t : State, step s = .next t ∧ s.Interrupted t Config.nmiVector ∧ t.ief1 = false ∧
      t.ief2 = (if Config.nmiCopiesIef1 = true then s.ief1 else s.ief2) ∧ (s.ief1 = s.ief2 → t.ief2 = s.ief2)

/-- Acceptance while MADL = 1 is refused. An NMI, or a maskable interrupt in mode 1, in mode 2 or in mode 0 with an
inserted RST, that would be accepted while MADL = 1 is refused under that name: it is not silently ignored. That the
refusal is named where a read of mode 2 is not admitted, so that R60 stops as well, is the precedence of log 12
(DEDUCED); that the device gives one byte is log 11 (DESIGN CHOICE). (R161) -/
def Obligations.MixedModeAcceptanceRefused : Prop :=
  ∀ s : State, s.madl = true →
    (s.nmiAccepted ∨ (s.intAccepted ∧ (s.im ≠ .mode0 ∨
      ∃ t : BitVec 3, s.input.device = BitVec.ofNat 8 (0xC7 + 8 * t.toNat)))) →
    step s = .refused .mixedModeAcceptance

/-- A maskable request that is masked, or shadowed by EI, changes nothing. With IEF1 = 0 or EI_SHADOW = 1, a step at a
boundary where INT is presented is the step at the same boundary without it, whatever the device drives; a suspended
CPU is not woken. (R153, R167, R193) -/
def Obligations.MaskedRequestIgnored : Prop :=
  ∀ (s : State) (x : Input) (xs : List Input), s.inputs = x :: xs → (s.ief1 = false ∨ s.eiShadow = true) →
    x.reset = false → x.nmi = false →
    step s = step { s with inputs := { x with int := false, device := 0x00#8 } :: xs }

/-- RESET over NMI over a maskable interrupt. A step at a boundary where RESET is presented does not depend on the
other inputs of that boundary; one where NMI is presented without RESET does not depend on INT and the device byte.
(R152, R162) -/
def Obligations.EventPriority : Prop :=
  ∀ (s : State) (x y : Input) (xs : List Input), x.reset = y.reset →
    (x.reset = true ∨ (x.nmi = true ∧ y.nmi = true)) →
    step { s with inputs := x :: xs } = step { s with inputs := y :: xs }

/-- Reset is taken over everything, ends a suspension and leaves memory alone. At a boundary with RESET the step goes
on: RUN is RUNNING, EI_SHADOW is 0, memory is unchanged (the spec's). The model's choice are the rest: the registers,
flags and control bits are those of State.reset (logs 1, 2 and 4), the platform is unchanged (log 6), one input is
used up (log 5). (R190, R152) -/
def Obligations.ResetEvent : Prop :=
  ∀ s : State, s.input.reset = true →
    ∃ t : State, step s = .next t ∧ t.run = .running ∧ t.eiShadow = false ∧ t.mem = s.mem ∧ t.unbacked = s.unbacked ∧
      t = { State.reset with mem := s.mem, inputs := s.inputs.tail, unbacked := s.unbacked }

/-- A suspended CPU with nothing to accept does not change. A HALTED or SLEEPING CPU at a boundary with no acceptable
event only uses up the input (log 5, DESIGN CHOICE: the list of inputs is the model's); with no inputs to come, any
number of steps leaves the very same state. (R32, R152, R167) -/
def Obligations.SuspendedStays : Prop :=
  (∀ s : State, s.run ≠ .running → s.noEvent → step s = .next { s with inputs := s.inputs.tail }) ∧
  (∀ (n : Nat) (s : State), s.run ≠ .running → s.inputs = [] → Host.Core.run Sys2Proof.core n s = .next s)

/-- An interrupt out of HALT or SLP pushes the address after the instruction and ends the suspension. If HALT or SLP
stands at PC, no event is presented there and the next boundary presents an NMI, or a maskable request with IEF1 = 1,
and no RESET (MADL = 0, writes admitted): the first step suspends with PC past the instruction; the second runs again,
with that address pushed, at NMI_VECTOR (free, log 8) or at the target of the interrupt mode (the one device byte of
mode 0 is log 11, the target of mode 2 is free, log 10). (R103, R108, R153, R154, R155, R160, R167) -/
def Obligations.InterruptEndsSuspension : Prop :=
  ∀ (s : State) (i : Instr) (x : Input) (xs : List Input), i = .halt ∨ i = .slp → s.noEvent → s.run = .running →
    s.holdsCode (encode i) s.pc = true → s.inputs.tail = x :: xs → x.reset = false → s.madl = false → s.pushReady →
    ∃ t : State, step s = .next t ∧ t.run = (if i = .halt then .halted else .sleeping) ∧
      t.pc = s.pc + BitVec.ofNat 24 i.length ∧ t.inputs = x :: xs ∧
      (x.nmi = true → ∃ u : State, step t = .next u ∧ u.run = .running ∧ u.pc = Config.nmiVector ∧
        s.Pushed u (s.pc + BitVec.ofNat 24 i.length)) ∧
      (x.nmi = false → x.int = true → s.ief1 = true → ∀ target : Addr, t.intTarget target →
        ∃ u : State, step t = .next u ∧ u.run = .running ∧ u.pc = target ∧
          s.Pushed u (s.pc + BitVec.ofNat 24 i.length))

/-- RETI returns to the point where the maskable interrupt was accepted, without enabling interrupts. After an
accepted maskable interrupt, in mode 0 with an inserted RST (log 11), in mode 1, or in mode 2 with its reads admitted
(log 10) (MADL = 0, stack bytes writable and readable), a RETI from anywhere in the routine goes on to the boundary PC
with SP as before and both interrupt flags still reset. (R133, R156, R157, R158, R159, R164) -/
def Obligations.RetiReturns : Prop :=
  ∀ (s : State) (target : Addr), s.intAccepted → s.intTarget target → s.madl = false → s.pushReady →
    s.admits .read (s.sp - 1#24) = true → s.admits .read (s.sp - 2#24) = true → s.admits .read (s.sp - 3#24) = true →
    ∃ t : State, step s = .next t ∧ t.pc = target ∧
      ∀ p : Addr, ∃ u : State, exec .reti { t with pc := p } = .next u ∧ u.pc = s.pc ∧ u.sp = s.sp ∧
        u.ief1 = false ∧ u.ief2 = false

/-- RETN restores the enable state that the nonmaskable interrupt found. After an accepted NMI (MADL = 0, stack bytes
writable and readable) with IEF1 = IEF2, a RETN from anywhere in the routine goes on to the boundary PC with SP and
IEF1 as before, for either value of NMI_IEF2. (R134, R160, R165) -/
def Obligations.RetnRestoresEnable : Prop :=
  ∀ s : State, s.nmiAccepted → s.madl = false → s.pushReady → s.ief1 = s.ief2 →
    s.admits .read (s.sp - 1#24) = true → s.admits .read (s.sp - 2#24) = true → s.admits .read (s.sp - 3#24) = true →
    ∃ t : State, step s = .next t ∧ t.ief1 = false ∧
      ∀ p : Addr, ∃ u : State, exec .retn { t with pc := p } = .next u ∧ u.pc = s.pc ∧ u.sp = s.sp ∧ u.ief1 = s.ief1

/-- Every step keeps memory in its canonical form. From every state whose memory lists rising addresses inside the
24-bit space and no blank byte, a step that goes on gives such a memory. The canonical form, and that $00 is the byte
not listed, are the model's own way to hold the memory of R50 (log 3, DESIGN CHOICE): no rule says them. (R50, R52) -/
def Obligations.StepKeepsMemoryForm : Prop :=
  ∀ s t : State, s.mem.wf → step s = .next t → t.mem.wf

/-- IEF1 <= IEF2 is kept by every step. From every state where IEF1 = 1 implies IEF2 = 1, a step that goes on,
instruction, acceptance (either NMI_IEF2) or reset, gives such a state. For the reset event it rests on the reset
values of log 1. (R28) -/
def Obligations.StepKeepsIefOrder : Prop :=
  ∀ s t : State, s.iefOrdered → step s = .next t → t.iefOrdered

/-- With EI_DELAY = 0 the hidden bit is constantly 0. From every state where EI_DELAY = 0 implies EI_SHADOW = 0, a
step that goes on gives such a state. (R33) -/
def Obligations.StepKeepsShadowOff : Prop :=
  ∀ s t : State, s.shadowOff → step s = .next t → t.shadowOff

/-- The state after reset meets the invariants, runs and has no shadow. RUN = RUNNING and EI_SHADOW = 0 are the
spec's; that IEF1 <= IEF2 holds rests on the reset values of log 1, the memory's form on log 3. (R190, R28, R33) -/
def Obligations.ResetInvariant : Prop :=
  State.reset.run = .running ∧ State.reset.eiShadow = false ∧ State.reset.Inv

/-- Only EI leaves EI_SHADOW set. If the hidden bit is set after a step, the step ran an EI, or the CPU was suspended,
nothing was accepted and the bit was set before. (R33, R152, R155) -/
def Obligations.ShadowOnlyAfterEi : Prop :=
  ∀ s t : State, step s = .next t → t.eiShadow = true →
    (s.noEvent ∧ s.run = .running ∧
      ∃ bytes u rest, fetchInstr s.takeInput = .ok (bytes, u) ∧ decode bytes = .ok (.ei, rest)) ∨
    (s.noEvent ∧ s.run ≠ .running ∧ s.eiShadow = true)

/-- No step changes a byte of memory other than the three below SP. For every step that goes on, instruction,
acceptance or reset: every byte outside SP-1, SP-2, SP-3, taken from SP before the step, reads as before. (R37, R58,
R61, R190) -/
def Obligations.StepWritesOnlyStack : Prop :=
  ∀ s t : State, step s = .next t →
    ∀ a : Addr, a ≠ s.sp - 1#24 → a ≠ s.sp - 2#24 → a ≠ s.sp - 3#24 → t.mem.read a = s.mem.read a

/-- Nothing in scope but reset writes HL, IX, IY, I, Z, PV or S; the model keeps the platform and uses up one input.
For every step that goes on: the platform is unchanged and one input is used up; unless it was a reset, HL, IX, IY, I
and the flags Z, PV, S are unchanged. That no step changes the platform is log 6, that a step uses up one input is log
5 (both DESIGN CHOICE, of the model's own fields); the registers and flags are the spec's. (R37) -/
def Obligations.StepKeepsUnwrittenState : Prop :=
  ∀ s t : State, step s = .next t →
    t.unbacked = s.unbacked ∧ t.inputs = s.inputs.tail ∧
    (s.input.reset = false →
      t.hl = s.hl ∧ t.ix = s.ix ∧ t.iy = s.iy ∧ t.i = s.i ∧
      t.flags.z = s.flags.z ∧ t.flags.pv = s.flags.pv ∧ t.flags.s = s.flags.s)

/-- Where the platform admits everything and the code is in the table, a step goes on. With every access admitted and
MADL = 0: if an accepted mode 0 interrupt brings an RST, and a running CPU with no event has the encoding of a well-
formed instruction at PC, then the step answers a next state. That a mode 0 acceptance takes one device byte is log
11; that a mode 2 acceptance goes on to some target, whatever it reads, is the free IM2_TARGET of log 10 (both DESIGN
CHOICE). (R60, R81, R150, R152, R157, R158, R161) -/
def Obligations.StepGoesOn : Prop :=
  ∀ s : State, s.unbacked = [] → s.madl = false →
    (s.intAccepted → s.im = .mode0 → ∃ t : BitVec 3, s.input.device = BitVec.ofNat 8 (0xC7 + 8 * t.toNat)) →
    (s.noEvent → s.run = .running → ∃ i : Instr, i.wellFormed = true ∧ s.holdsCode (encode i) s.pc = true) →
    s.goesOn

/-- A mode 2 acceptance stops on the first of its reads that the platform does not admit. Where a maskable interrupt
is accepted with IM = 2 and MADL = 0: the step stops under the name of the first of the addresses that IM2_TARGET
reads (which those are is free, log 10; there may be none) whose read is not admitted; where all are admitted, it goes
on exactly if the three writes of the push are. The reads come before the push (log 10). (R58, R60, R158) -/
def Obligations.MaskableMode2ReadStops : Prop :=
  ∀ s : State, s.intAccepted → s.im = .mode2 → s.madl = false →
    match (Config.im2Reads s.im2Value).find? (fun a => !s.admits .read a) with
    | some a => step s = .fault (.notAdmitted .read a)
    | none => (∃ t : State, step s = .next t) ↔ s.pushReady
end

