-- ==== Sys2Proof/Laws/Bytes.lean ====
section
/-! SUPPORT. Three bytes and the 24-bit value they make: each direction undoes the other (R53, R76). -/

namespace Sys2Proof.Machine

/-- One bit of three bytes in a row. -/
theorem append_getLsbD (l m h : Byte) (k : Nat) :
    (h ++ m ++ l).getLsbD k =
      if k < 8 then l.getLsbD k else if k - 8 < 8 then m.getLsbD (k - 8) else h.getLsbD (k - 8 - 8) := by
  rw [BitVec.getLsbD_append, BitVec.getLsbD_append]

theorem append_low (l m h : Byte) : (h ++ m ++ l).extractLsb' 0 8 = l := by
  apply BitVec.eq_of_getLsbD_eq
  intro k hk
  rw [BitVec.getLsbD_extractLsb', append_getLsbD, if_pos (by omega), decide_eq_true hk, Nat.zero_add, Bool.true_and]

theorem append_mid (l m h : Byte) : (h ++ m ++ l).extractLsb' 8 8 = m := by
  apply BitVec.eq_of_getLsbD_eq
  intro k hk
  rw [BitVec.getLsbD_extractLsb', append_getLsbD, if_neg (by omega), if_pos (by omega), decide_eq_true hk,
    Bool.true_and, Nat.add_sub_cancel_left]

theorem append_high (l m h : Byte) : (h ++ m ++ l).extractLsb' 16 8 = h := by
  apply BitVec.eq_of_getLsbD_eq
  intro k hk
  rw [BitVec.getLsbD_extractLsb', append_getLsbD, if_neg (by omega), if_neg (by omega), decide_eq_true hk,
    Bool.true_and, show 16 + k - 8 - 8 = k by omega]

theorem append_parts (v : BitVec (8 + 8 + 8)) : v.extractLsb' 16 8 ++ v.extractLsb' 8 8 ++ v.extractLsb' 0 8 = v := by
  apply BitVec.eq_of_getLsbD_eq
  intro k hk
  rw [append_getLsbD, BitVec.getLsbD_extractLsb', BitVec.getLsbD_extractLsb', BitVec.getLsbD_extractLsb']
  split
  · rw [decide_eq_true ‹_›, Bool.true_and, Nat.zero_add]
  · split
    · rw [decide_eq_true ‹_›, Bool.true_and, show 8 + (k - 8) = k by omega]
    · rw [decide_eq_true (by omega), Bool.true_and, show 16 + (k - 8 - 8) = k by omega]

@[simp] theorem loByte_addrOfBytes (l m h : Byte) : loByte (addrOfBytes l m h) = l := append_low l m h

@[simp] theorem midByte_addrOfBytes (l m h : Byte) : midByte (addrOfBytes l m h) = m := append_mid l m h

@[simp] theorem hiByte_addrOfBytes (l m h : Byte) : hiByte (addrOfBytes l m h) = h := append_high l m h

/-- The value of its own three bytes. -/
@[simp] theorem addrOfBytes_bytes (v : Addr) : addrOfBytes (loByte v) (midByte v) (hiByte v) = v := append_parts v

/-- `imm24` of the bytes the encoder writes for it (R76). -/
theorem imm24OfBytes_bytes (a : Addr) :
    imm24OfBytes (a.extractLsb' 0 8) (a.extractLsb' 8 8) (a.extractLsb' 16 8) = a := append_parts a

/-- The bytes the encoder writes for the `imm24` of three bytes (R76). -/
theorem imm24Bytes_ofBytes (l m h : Byte) : imm24Bytes (imm24OfBytes l m h) = [l, m, h] := by
  unfold imm24Bytes imm24OfBytes
  rw [List.cons_eq_cons, List.cons_eq_cons, List.cons_eq_cons]
  exact ⟨append_low l m h, append_mid l m h, append_high l m h, rfl⟩

end Sys2Proof.Machine
end

