-- ==== Sys2Proof/Laws/PerInstr.lean ====
section
/-! SUPPORT. A family of statements about every instruction as syntax: its encoding is as long as the instruction, 1, 2 or 4
bytes (R70), and the first byte alone gives that length (R79). -/

namespace Sys2Proof.Laws.EncodedLength

/-- The first byte of the encoding gives the number of bytes, which is the instruction's length. -/
def Statement (i : Instr) : Prop :=
  i.wellFormed = true → ∃ b0 tail, encode i = b0 :: tail ∧ (encode i).length = i.length ∧ lengthOfFirst b0 = i.length

theorem ccf : Statement .ccf := fun _ => ⟨_, _, rfl, rfl, rfl⟩

theorem di : Statement .di := fun _ => ⟨_, _, rfl, rfl, rfl⟩

theorem ei : Statement .ei := fun _ => ⟨_, _, rfl, rfl, rfl⟩

theorem halt : Statement .halt := fun _ => ⟨_, _, rfl, rfl, rfl⟩

theorem im0 : Statement .im0 := fun _ => ⟨_, _, rfl, rfl, rfl⟩

theorem im1 : Statement .im1 := fun _ => ⟨_, _, rfl, rfl, rfl⟩

theorem im2 : Statement .im2 := fun _ => ⟨_, _, rfl, rfl, rfl⟩

theorem nop : Statement .nop := fun _ => ⟨_, _, rfl, rfl, rfl⟩

theorem rsmix : Statement .rsmix := fun _ => ⟨_, _, rfl, rfl, rfl⟩

theorem scf : Statement .scf := fun _ => ⟨_, _, rfl, rfl, rfl⟩

theorem slp : Statement .slp := fun _ => ⟨_, _, rfl, rfl, rfl⟩

theorem stmix : Statement .stmix := fun _ => ⟨_, _, rfl, rfl, rfl⟩

theorem callCc (cc : Cond) (imm24 : Addr) : Statement (.callCc cc imm24) := by
  cases cc <;> exact fun _ => ⟨_, _, rfl, rfl, rfl⟩

theorem call (imm24 : Addr) : Statement (.call imm24) := fun _ => ⟨_, _, rfl, rfl, rfl⟩

theorem djnz (ofs8 : Byte) : Statement (.djnz ofs8) := fun _ => ⟨_, _, rfl, rfl, rfl⟩

theorem jpHl : Statement .jpHl := fun _ => ⟨_, _, rfl, rfl, rfl⟩

theorem jpCc (cc : Cond) (imm24 : Addr) : Statement (.jpCc cc imm24) := by
  cases cc <;> exact fun _ => ⟨_, _, rfl, rfl, rfl⟩

theorem jp (imm24 : Addr) : Statement (.jp imm24) := fun _ => ⟨_, _, rfl, rfl, rfl⟩

theorem jpIx : Statement .jpIx := fun _ => ⟨_, _, rfl, rfl, rfl⟩

theorem jpIy : Statement .jpIy := fun _ => ⟨_, _, rfl, rfl, rfl⟩

theorem jr (ofs8 : Byte) : Statement (.jr ofs8) := fun _ => ⟨_, _, rfl, rfl, rfl⟩

theorem jrCc (cc : Cond) (ofs8 : Byte) : Statement (.jrCc cc ofs8) := by
  cases cc <;> exact fun _ => ⟨_, _, rfl, rfl, rfl⟩

theorem retCc (cc : Cond) : Statement (.retCc cc) := by
  cases cc <;> exact fun _ => ⟨_, _, rfl, rfl, rfl⟩

theorem ret : Statement .ret := fun _ => ⟨_, _, rfl, rfl, rfl⟩

theorem reti : Statement .reti := fun _ => ⟨_, _, rfl, rfl, rfl⟩

theorem retn : Statement .retn := fun _ => ⟨_, _, rfl, rfl, rfl⟩

theorem rst (t : BitVec 3) : Statement (.rst t) := by
  revert t; intro t _; exact ⟨_, _, rfl, rfl, by revert t; decide⟩

end Sys2Proof.Laws.EncodedLength
end

