-- ==== Sys2Proof/Laws/Decode.lean ====
section
/-! SUPPORT. What the parts of the decoder can answer, and the fields they read. -/

namespace Sys2Proof.Machine

variable {rest r : List Byte} {i : Instr}

theorem withOfs8_ok {mk : Byte → Instr} (h : withOfs8 mk rest = .ok (i, r)) : ∃ d, i = mk d ∧ rest = d :: r := by
  cases rest with
  | nil => cases h
  | cons d rest => cases h; exact ⟨d, rfl, rfl⟩

theorem withImm24_ok {mk : Addr → Instr} (h : withImm24 mk rest = .ok (i, r)) :
    ∃ a, i = mk a ∧ rest = imm24Bytes a ++ r := by
  rcases rest with _ | ⟨l, _ | ⟨m, _ | ⟨hi, rest⟩⟩⟩ <;> cases h
  exact ⟨_, rfl, by rw [imm24Bytes_ofBytes]; rfl⟩

theorem decodeIndex_ok {b0 : Byte} {j : Instr} (h : decodeIndex b0 j rest = .ok (i, r)) :
    i = j ∧ rest = 0xE9#8 :: r := by
  unfold decodeIndex at h
  split at h
  · cases h
  · split at h
    · cases h; subst_vars; exact ⟨rfl, rfl⟩
    · cases h

/-- A first byte with bits 7:6 set is its field between those bits and its low three (R71). -/
theorem byte_of_fields : ∀ b0 : Byte, b0.extractLsb' 6 2 = 0b11#2 →
    b0 = 0b11#2 ++ b0.extractLsb' 3 3 ++ b0.extractLsb' 0 3 := by decide

theorem code3_condOfCode3 : ∀ c : BitVec 3, (condOfCode3 c).code3 = c := by decide

theorem condOfCode3_code3 (cc : Cond) : condOfCode3 cc.code3 = cc := by cases cc <;> rfl

theorem condOfCode2_code2 {cc : Cond} (h : cc.fitsTwoBits = true) : condOfCode2 cc.code2 = cc := by
  cases cc <;> first | rfl | cases h

/-- The encoding of a well-formed instruction: as long as the instruction, and its first byte gives that length (R70, R79). -/
theorem encode_first : ∀ {i : Instr}, i.wellFormed = true →
    ∃ b0 tail, encode i = b0 :: tail ∧ (encode i).length = i.length ∧ lengthOfFirst b0 = i.length
  | .ccf => Laws.EncodedLength.ccf
  | .di => Laws.EncodedLength.di
  | .ei => Laws.EncodedLength.ei
  | .halt => Laws.EncodedLength.halt
  | .im0 => Laws.EncodedLength.im0
  | .im1 => Laws.EncodedLength.im1
  | .im2 => Laws.EncodedLength.im2
  | .nop => Laws.EncodedLength.nop
  | .rsmix => Laws.EncodedLength.rsmix
  | .scf => Laws.EncodedLength.scf
  | .slp => Laws.EncodedLength.slp
  | .stmix => Laws.EncodedLength.stmix
  | .callCc x y => Laws.EncodedLength.callCc x y
  | .call x => Laws.EncodedLength.call x
  | .djnz x => Laws.EncodedLength.djnz x
  | .jpHl => Laws.EncodedLength.jpHl
  | .jpCc x y => Laws.EncodedLength.jpCc x y
  | .jp x => Laws.EncodedLength.jp x
  | .jpIx => Laws.EncodedLength.jpIx
  | .jpIy => Laws.EncodedLength.jpIy
  | .jr x => Laws.EncodedLength.jr x
  | .jrCc x y => Laws.EncodedLength.jrCc x y
  | .retCc x => Laws.EncodedLength.retCc x
  | .ret => Laws.EncodedLength.ret
  | .reti => Laws.EncodedLength.reti
  | .retn => Laws.EncodedLength.retn
  | .rst x => Laws.EncodedLength.rst x

end Sys2Proof.Machine
end

