-- ==== Sys2Proof/Laws/Memory.lean ====
section
/-! SUPPORT. The laws of memory: a read after a write, and that every memory operation keeps the canonical form. -/

namespace Sys2Proof.Machine

theorem Memory.read_clearAt (m : Memory) (a b : Addr) :
    (m.clearAt a).read b = if b = a then Memory.blank else m.read b := by
  induction m with
  | nil => simp [Memory.clearAt, Memory.read]
  | cons c m ih =>
    obtain ⟨k, w⟩ := c
    by_cases hk : k = a.toNat
    · have : Memory.clearAt ((k, w) :: m) a = Memory.clearAt m a := by simp [Memory.clearAt, hk]
      rw [this, ih]
      by_cases hb : b = a
      · simp [hb]
      · have : k ≠ b.toNat := by rw [hk]; exact fun h => hb (BitVec.eq_of_toNat_eq h.symm)
        simp [hb, Memory.read, this]
    · have : Memory.clearAt ((k, w) :: m) a = (k, w) :: Memory.clearAt m a := by simp [Memory.clearAt, hk]
      rw [this]
      simp only [Memory.read, ih]
      by_cases hkb : k = b.toNat
      · have : b ≠ a := by rintro rfl; exact hk hkb
        simp [hkb, this]
      · simp [hkb]

theorem Memory.read_putAt (m : Memory) (a b : Addr) (v : Byte) :
    (m.putAt a v).read b = if b = a then v else m.read b := by
  have key : (a.toNat = b.toNat) ↔ b = a := by rw [BitVec.toNat_inj]; exact eq_comm
  induction m with
  | nil => simp [Memory.putAt, Memory.read, key]
  | cons c m ih =>
    obtain ⟨k, w⟩ := c
    simp only [Memory.putAt]
    split
    · simp [Memory.read, key]
    · split
      · rename_i _ hk
        subst hk
        by_cases hb : b = a <;> simp [Memory.read, key, hb]
      · rename_i _ hk
        by_cases hkb : k = b.toNat
        · have : b ≠ a := by rintro rfl; exact hk hkb.symm
          simp [Memory.read, hkb, this]
        · simp [Memory.read, hkb, ih]

/-- A read after a write: the value written at its address, the old byte elsewhere (R61). -/
@[simp] theorem Memory.read_write (m : Memory) (a b : Addr) (v : Byte) :
    (m.write a v).read b = if b = a then v else m.read b := by
  unfold Memory.write
  split
  · rename_i hv; rw [Memory.read_clearAt, hv]
  · rw [Memory.read_putAt]

theorem Memory.wf_nil : Memory.wf [] := ⟨List.Pairwise.nil, by simp⟩

theorem Memory.wf_cons {c : Host.Cell} {m : Memory} :
    Memory.wf (c :: m) ↔ ((∀ d ∈ m, c.1 < d.1) ∧ c.1 < 2 ^ 24 ∧ c.2 ≠ Memory.blank) ∧ m.wf := by
  simp only [Memory.wf, List.pairwise_cons, List.mem_cons, forall_eq_or_imp]
  tauto

theorem Memory.wf_clearAt {m : Memory} (h : m.wf) (a : Addr) : (m.clearAt a).wf :=
  ⟨h.1.filter _, fun c hc => h.2 c (List.mem_filter.mp hc).1⟩

theorem Memory.mem_putAt {m : Memory} {a : Addr} {v : Byte} {c : Host.Cell} (h : c ∈ m.putAt a v) :
    c = (a.toNat, v) ∨ c ∈ m := by
  induction m with
  | nil => simpa [Memory.putAt] using h
  | cons d m ih =>
    obtain ⟨k, w⟩ := d
    simp only [Memory.putAt] at h
    split at h
    · simpa using h
    · split at h
      · simp only [List.mem_cons] at h ⊢; tauto
      · simp only [List.mem_cons] at h ⊢
        rcases h with h | h
        · tauto
        · rcases ih h with h | h <;> tauto

theorem Memory.wf_putAt {m : Memory} (h : m.wf) (a : Addr) {v : Byte} (hv : v ≠ Memory.blank) : (m.putAt a v).wf := by
  induction m with
  | nil => exact Memory.wf_cons.mpr ⟨⟨by simp, a.isLt, hv⟩, Memory.wf_nil⟩
  | cons d m ih =>
    obtain ⟨k, w⟩ := d
    obtain ⟨⟨hlt, hk, hw⟩, hm⟩ := Memory.wf_cons.mp h
    simp only at hlt hk hw
    simp only [Memory.putAt]
    split
    · rename_i hak
      refine Memory.wf_cons.mpr ⟨⟨?_, a.isLt, hv⟩, h⟩
      intro d hd
      rcases List.mem_cons.mp hd with rfl | hd
      · exact hak
      · exact hak.trans (hlt d hd)
    · split
      · rename_i _ hak
        exact Memory.wf_cons.mpr ⟨⟨fun d hd => hak ▸ hlt d hd, a.isLt, hv⟩, hm⟩
      · rename_i h1 h2
        refine Memory.wf_cons.mpr ⟨⟨?_, hk, hw⟩, ih hm⟩
        intro d hd
        rcases Memory.mem_putAt hd with rfl | hd
        · show k < a.toNat; omega
        · exact hlt d hd

/-- A write keeps the canonical form. -/
theorem Memory.wf_write {m : Memory} (h : m.wf) (a : Addr) (v : Byte) : (m.write a v).wf := by
  unfold Memory.write
  split
  · exact Memory.wf_clearAt h a
  · exact Memory.wf_putAt h a ‹_›

/-- Placing bytes keeps the canonical form. -/
theorem Memory.wf_place {m : Memory} (h : m.wf) (vs : List Byte) (a : Addr) : (Memory.place vs a m).wf := by
  induction vs generalizing a m with
  | nil => exact h
  | cons v vs ih => exact ih (Memory.wf_write h a v) (a + 1#24)

/-- The memory after reset has the canonical form. -/
theorem Memory.wf_reset : State.reset.mem.wf := Memory.wf_nil

end Sys2Proof.Machine
end

