-- ==== Sys2Proof/Laws/State.lean ====
section
/-! SUPPORT. One lemma per field per update of the state, so that no later proof unfolds a record update. -/

namespace Sys2Proof.Machine.State

@[simp] theorem setPc_pc (s : State) v : (s.setPc v).pc = v := rfl
@[simp] theorem setPc_sp (s : State) v : (s.setPc v).sp = s.sp := rfl
@[simp] theorem setPc_b (s : State) v : (s.setPc v).b = s.b := rfl
@[simp] theorem setPc_hl (s : State) v : (s.setPc v).hl = s.hl := rfl
@[simp] theorem setPc_ix (s : State) v : (s.setPc v).ix = s.ix := rfl
@[simp] theorem setPc_iy (s : State) v : (s.setPc v).iy = s.iy := rfl
@[simp] theorem setPc_i (s : State) v : (s.setPc v).i = s.i := rfl
@[simp] theorem setPc_flags (s : State) v : (s.setPc v).flags = s.flags := rfl
@[simp] theorem setPc_ief1 (s : State) v : (s.setPc v).ief1 = s.ief1 := rfl
@[simp] theorem setPc_ief2 (s : State) v : (s.setPc v).ief2 = s.ief2 := rfl
@[simp] theorem setPc_im (s : State) v : (s.setPc v).im = s.im := rfl
@[simp] theorem setPc_madl (s : State) v : (s.setPc v).madl = s.madl := rfl
@[simp] theorem setPc_run (s : State) v : (s.setPc v).run = s.run := rfl
@[simp] theorem setPc_eiShadow (s : State) v : (s.setPc v).eiShadow = s.eiShadow := rfl
@[simp] theorem setPc_mem (s : State) v : (s.setPc v).mem = s.mem := rfl
@[simp] theorem setPc_inputs (s : State) v : (s.setPc v).inputs = s.inputs := rfl
@[simp] theorem setPc_unbacked (s : State) v : (s.setPc v).unbacked = s.unbacked := rfl
@[simp] theorem setPc_admits (s : State) v k a : (s.setPc v).admits k a = s.admits k a := rfl

@[simp] theorem setSp_pc (s : State) v : (s.setSp v).pc = s.pc := rfl
@[simp] theorem setSp_sp (s : State) v : (s.setSp v).sp = v := rfl
@[simp] theorem setSp_b (s : State) v : (s.setSp v).b = s.b := rfl
@[simp] theorem setSp_hl (s : State) v : (s.setSp v).hl = s.hl := rfl
@[simp] theorem setSp_ix (s : State) v : (s.setSp v).ix = s.ix := rfl
@[simp] theorem setSp_iy (s : State) v : (s.setSp v).iy = s.iy := rfl
@[simp] theorem setSp_i (s : State) v : (s.setSp v).i = s.i := rfl
@[simp] theorem setSp_flags (s : State) v : (s.setSp v).flags = s.flags := rfl
@[simp] theorem setSp_ief1 (s : State) v : (s.setSp v).ief1 = s.ief1 := rfl
@[simp] theorem setSp_ief2 (s : State) v : (s.setSp v).ief2 = s.ief2 := rfl
@[simp] theorem setSp_im (s : State) v : (s.setSp v).im = s.im := rfl
@[simp] theorem setSp_madl (s : State) v : (s.setSp v).madl = s.madl := rfl
@[simp] theorem setSp_run (s : State) v : (s.setSp v).run = s.run := rfl
@[simp] theorem setSp_eiShadow (s : State) v : (s.setSp v).eiShadow = s.eiShadow := rfl
@[simp] theorem setSp_mem (s : State) v : (s.setSp v).mem = s.mem := rfl
@[simp] theorem setSp_inputs (s : State) v : (s.setSp v).inputs = s.inputs := rfl
@[simp] theorem setSp_unbacked (s : State) v : (s.setSp v).unbacked = s.unbacked := rfl
@[simp] theorem setSp_admits (s : State) v k a : (s.setSp v).admits k a = s.admits k a := rfl

@[simp] theorem setB_pc (s : State) v : (s.setB v).pc = s.pc := rfl
@[simp] theorem setB_sp (s : State) v : (s.setB v).sp = s.sp := rfl
@[simp] theorem setB_b (s : State) v : (s.setB v).b = v := rfl
@[simp] theorem setB_hl (s : State) v : (s.setB v).hl = s.hl := rfl
@[simp] theorem setB_ix (s : State) v : (s.setB v).ix = s.ix := rfl
@[simp] theorem setB_iy (s : State) v : (s.setB v).iy = s.iy := rfl
@[simp] theorem setB_i (s : State) v : (s.setB v).i = s.i := rfl
@[simp] theorem setB_flags (s : State) v : (s.setB v).flags = s.flags := rfl
@[simp] theorem setB_ief1 (s : State) v : (s.setB v).ief1 = s.ief1 := rfl
@[simp] theorem setB_ief2 (s : State) v : (s.setB v).ief2 = s.ief2 := rfl
@[simp] theorem setB_im (s : State) v : (s.setB v).im = s.im := rfl
@[simp] theorem setB_madl (s : State) v : (s.setB v).madl = s.madl := rfl
@[simp] theorem setB_run (s : State) v : (s.setB v).run = s.run := rfl
@[simp] theorem setB_eiShadow (s : State) v : (s.setB v).eiShadow = s.eiShadow := rfl
@[simp] theorem setB_mem (s : State) v : (s.setB v).mem = s.mem := rfl
@[simp] theorem setB_inputs (s : State) v : (s.setB v).inputs = s.inputs := rfl
@[simp] theorem setB_unbacked (s : State) v : (s.setB v).unbacked = s.unbacked := rfl
@[simp] theorem setB_admits (s : State) v k a : (s.setB v).admits k a = s.admits k a := rfl

@[simp] theorem setFlags_pc (s : State) v : (s.setFlags v).pc = s.pc := rfl
@[simp] theorem setFlags_sp (s : State) v : (s.setFlags v).sp = s.sp := rfl
@[simp] theorem setFlags_b (s : State) v : (s.setFlags v).b = s.b := rfl
@[simp] theorem setFlags_hl (s : State) v : (s.setFlags v).hl = s.hl := rfl
@[simp] theorem setFlags_ix (s : State) v : (s.setFlags v).ix = s.ix := rfl
@[simp] theorem setFlags_iy (s : State) v : (s.setFlags v).iy = s.iy := rfl
@[simp] theorem setFlags_i (s : State) v : (s.setFlags v).i = s.i := rfl
@[simp] theorem setFlags_flags (s : State) v : (s.setFlags v).flags = v := rfl
@[simp] theorem setFlags_ief1 (s : State) v : (s.setFlags v).ief1 = s.ief1 := rfl
@[simp] theorem setFlags_ief2 (s : State) v : (s.setFlags v).ief2 = s.ief2 := rfl
@[simp] theorem setFlags_im (s : State) v : (s.setFlags v).im = s.im := rfl
@[simp] theorem setFlags_madl (s : State) v : (s.setFlags v).madl = s.madl := rfl
@[simp] theorem setFlags_run (s : State) v : (s.setFlags v).run = s.run := rfl
@[simp] theorem setFlags_eiShadow (s : State) v : (s.setFlags v).eiShadow = s.eiShadow := rfl
@[simp] theorem setFlags_mem (s : State) v : (s.setFlags v).mem = s.mem := rfl
@[simp] theorem setFlags_inputs (s : State) v : (s.setFlags v).inputs = s.inputs := rfl
@[simp] theorem setFlags_unbacked (s : State) v : (s.setFlags v).unbacked = s.unbacked := rfl
@[simp] theorem setFlags_admits (s : State) v k a : (s.setFlags v).admits k a = s.admits k a := rfl

@[simp] theorem setIef1_pc (s : State) v : (s.setIef1 v).pc = s.pc := rfl
@[simp] theorem setIef1_sp (s : State) v : (s.setIef1 v).sp = s.sp := rfl
@[simp] theorem setIef1_b (s : State) v : (s.setIef1 v).b = s.b := rfl
@[simp] theorem setIef1_hl (s : State) v : (s.setIef1 v).hl = s.hl := rfl
@[simp] theorem setIef1_ix (s : State) v : (s.setIef1 v).ix = s.ix := rfl
@[simp] theorem setIef1_iy (s : State) v : (s.setIef1 v).iy = s.iy := rfl
@[simp] theorem setIef1_i (s : State) v : (s.setIef1 v).i = s.i := rfl
@[simp] theorem setIef1_flags (s : State) v : (s.setIef1 v).flags = s.flags := rfl
@[simp] theorem setIef1_ief1 (s : State) v : (s.setIef1 v).ief1 = v := rfl
@[simp] theorem setIef1_ief2 (s : State) v : (s.setIef1 v).ief2 = s.ief2 := rfl
@[simp] theorem setIef1_im (s : State) v : (s.setIef1 v).im = s.im := rfl
@[simp] theorem setIef1_madl (s : State) v : (s.setIef1 v).madl = s.madl := rfl
@[simp] theorem setIef1_run (s : State) v : (s.setIef1 v).run = s.run := rfl
@[simp] theorem setIef1_eiShadow (s : State) v : (s.setIef1 v).eiShadow = s.eiShadow := rfl
@[simp] theorem setIef1_mem (s : State) v : (s.setIef1 v).mem = s.mem := rfl
@[simp] theorem setIef1_inputs (s : State) v : (s.setIef1 v).inputs = s.inputs := rfl
@[simp] theorem setIef1_unbacked (s : State) v : (s.setIef1 v).unbacked = s.unbacked := rfl
@[simp] theorem setIef1_admits (s : State) v k a : (s.setIef1 v).admits k a = s.admits k a := rfl

@[simp] theorem setIef2_pc (s : State) v : (s.setIef2 v).pc = s.pc := rfl
@[simp] theorem setIef2_sp (s : State) v : (s.setIef2 v).sp = s.sp := rfl
@[simp] theorem setIef2_b (s : State) v : (s.setIef2 v).b = s.b := rfl
@[simp] theorem setIef2_hl (s : State) v : (s.setIef2 v).hl = s.hl := rfl
@[simp] theorem setIef2_ix (s : State) v : (s.setIef2 v).ix = s.ix := rfl
@[simp] theorem setIef2_iy (s : State) v : (s.setIef2 v).iy = s.iy := rfl
@[simp] theorem setIef2_i (s : State) v : (s.setIef2 v).i = s.i := rfl
@[simp] theorem setIef2_flags (s : State) v : (s.setIef2 v).flags = s.flags := rfl
@[simp] theorem setIef2_ief1 (s : State) v : (s.setIef2 v).ief1 = s.ief1 := rfl
@[simp] theorem setIef2_ief2 (s : State) v : (s.setIef2 v).ief2 = v := rfl
@[simp] theorem setIef2_im (s : State) v : (s.setIef2 v).im = s.im := rfl
@[simp] theorem setIef2_madl (s : State) v : (s.setIef2 v).madl = s.madl := rfl
@[simp] theorem setIef2_run (s : State) v : (s.setIef2 v).run = s.run := rfl
@[simp] theorem setIef2_eiShadow (s : State) v : (s.setIef2 v).eiShadow = s.eiShadow := rfl
@[simp] theorem setIef2_mem (s : State) v : (s.setIef2 v).mem = s.mem := rfl
@[simp] theorem setIef2_inputs (s : State) v : (s.setIef2 v).inputs = s.inputs := rfl
@[simp] theorem setIef2_unbacked (s : State) v : (s.setIef2 v).unbacked = s.unbacked := rfl
@[simp] theorem setIef2_admits (s : State) v k a : (s.setIef2 v).admits k a = s.admits k a := rfl

@[simp] theorem setIm_pc (s : State) v : (s.setIm v).pc = s.pc := rfl
@[simp] theorem setIm_sp (s : State) v : (s.setIm v).sp = s.sp := rfl
@[simp] theorem setIm_b (s : State) v : (s.setIm v).b = s.b := rfl
@[simp] theorem setIm_hl (s : State) v : (s.setIm v).hl = s.hl := rfl
@[simp] theorem setIm_ix (s : State) v : (s.setIm v).ix = s.ix := rfl
@[simp] theorem setIm_iy (s : State) v : (s.setIm v).iy = s.iy := rfl
@[simp] theorem setIm_i (s : State) v : (s.setIm v).i = s.i := rfl
@[simp] theorem setIm_flags (s : State) v : (s.setIm v).flags = s.flags := rfl
@[simp] theorem setIm_ief1 (s : State) v : (s.setIm v).ief1 = s.ief1 := rfl
@[simp] theorem setIm_ief2 (s : State) v : (s.setIm v).ief2 = s.ief2 := rfl
@[simp] theorem setIm_im (s : State) v : (s.setIm v).im = v := rfl
@[simp] theorem setIm_madl (s : State) v : (s.setIm v).madl = s.madl := rfl
@[simp] theorem setIm_run (s : State) v : (s.setIm v).run = s.run := rfl
@[simp] theorem setIm_eiShadow (s : State) v : (s.setIm v).eiShadow = s.eiShadow := rfl
@[simp] theorem setIm_mem (s : State) v : (s.setIm v).mem = s.mem := rfl
@[simp] theorem setIm_inputs (s : State) v : (s.setIm v).inputs = s.inputs := rfl
@[simp] theorem setIm_unbacked (s : State) v : (s.setIm v).unbacked = s.unbacked := rfl
@[simp] theorem setIm_admits (s : State) v k a : (s.setIm v).admits k a = s.admits k a := rfl

@[simp] theorem setMadl_pc (s : State) v : (s.setMadl v).pc = s.pc := rfl
@[simp] theorem setMadl_sp (s : State) v : (s.setMadl v).sp = s.sp := rfl
@[simp] theorem setMadl_b (s : State) v : (s.setMadl v).b = s.b := rfl
@[simp] theorem setMadl_hl (s : State) v : (s.setMadl v).hl = s.hl := rfl
@[simp] theorem setMadl_ix (s : State) v : (s.setMadl v).ix = s.ix := rfl
@[simp] theorem setMadl_iy (s : State) v : (s.setMadl v).iy = s.iy := rfl
@[simp] theorem setMadl_i (s : State) v : (s.setMadl v).i = s.i := rfl
@[simp] theorem setMadl_flags (s : State) v : (s.setMadl v).flags = s.flags := rfl
@[simp] theorem setMadl_ief1 (s : State) v : (s.setMadl v).ief1 = s.ief1 := rfl
@[simp] theorem setMadl_ief2 (s : State) v : (s.setMadl v).ief2 = s.ief2 := rfl
@[simp] theorem setMadl_im (s : State) v : (s.setMadl v).im = s.im := rfl
@[simp] theorem setMadl_madl (s : State) v : (s.setMadl v).madl = v := rfl
@[simp] theorem setMadl_run (s : State) v : (s.setMadl v).run = s.run := rfl
@[simp] theorem setMadl_eiShadow (s : State) v : (s.setMadl v).eiShadow = s.eiShadow := rfl
@[simp] theorem setMadl_mem (s : State) v : (s.setMadl v).mem = s.mem := rfl
@[simp] theorem setMadl_inputs (s : State) v : (s.setMadl v).inputs = s.inputs := rfl
@[simp] theorem setMadl_unbacked (s : State) v : (s.setMadl v).unbacked = s.unbacked := rfl
@[simp] theorem setMadl_admits (s : State) v k a : (s.setMadl v).admits k a = s.admits k a := rfl

@[simp] theorem setRun_pc (s : State) v : (s.setRun v).pc = s.pc := rfl
@[simp] theorem setRun_sp (s : State) v : (s.setRun v).sp = s.sp := rfl
@[simp] theorem setRun_b (s : State) v : (s.setRun v).b = s.b := rfl
@[simp] theorem setRun_hl (s : State) v : (s.setRun v).hl = s.hl := rfl
@[simp] theorem setRun_ix (s : State) v : (s.setRun v).ix = s.ix := rfl
@[simp] theorem setRun_iy (s : State) v : (s.setRun v).iy = s.iy := rfl
@[simp] theorem setRun_i (s : State) v : (s.setRun v).i = s.i := rfl
@[simp] theorem setRun_flags (s : State) v : (s.setRun v).flags = s.flags := rfl
@[simp] theorem setRun_ief1 (s : State) v : (s.setRun v).ief1 = s.ief1 := rfl
@[simp] theorem setRun_ief2 (s : State) v : (s.setRun v).ief2 = s.ief2 := rfl
@[simp] theorem setRun_im (s : State) v : (s.setRun v).im = s.im := rfl
@[simp] theorem setRun_madl (s : State) v : (s.setRun v).madl = s.madl := rfl
@[simp] theorem setRun_run (s : State) v : (s.setRun v).run = v := rfl
@[simp] theorem setRun_eiShadow (s : State) v : (s.setRun v).eiShadow = s.eiShadow := rfl
@[simp] theorem setRun_mem (s : State) v : (s.setRun v).mem = s.mem := rfl
@[simp] theorem setRun_inputs (s : State) v : (s.setRun v).inputs = s.inputs := rfl
@[simp] theorem setRun_unbacked (s : State) v : (s.setRun v).unbacked = s.unbacked := rfl
@[simp] theorem setRun_admits (s : State) v k a : (s.setRun v).admits k a = s.admits k a := rfl

@[simp] theorem setEiShadow_pc (s : State) v : (s.setEiShadow v).pc = s.pc := rfl
@[simp] theorem setEiShadow_sp (s : State) v : (s.setEiShadow v).sp = s.sp := rfl
@[simp] theorem setEiShadow_b (s : State) v : (s.setEiShadow v).b = s.b := rfl
@[simp] theorem setEiShadow_hl (s : State) v : (s.setEiShadow v).hl = s.hl := rfl
@[simp] theorem setEiShadow_ix (s : State) v : (s.setEiShadow v).ix = s.ix := rfl
@[simp] theorem setEiShadow_iy (s : State) v : (s.setEiShadow v).iy = s.iy := rfl
@[simp] theorem setEiShadow_i (s : State) v : (s.setEiShadow v).i = s.i := rfl
@[simp] theorem setEiShadow_flags (s : State) v : (s.setEiShadow v).flags = s.flags := rfl
@[simp] theorem setEiShadow_ief1 (s : State) v : (s.setEiShadow v).ief1 = s.ief1 := rfl
@[simp] theorem setEiShadow_ief2 (s : State) v : (s.setEiShadow v).ief2 = s.ief2 := rfl
@[simp] theorem setEiShadow_im (s : State) v : (s.setEiShadow v).im = s.im := rfl
@[simp] theorem setEiShadow_madl (s : State) v : (s.setEiShadow v).madl = s.madl := rfl
@[simp] theorem setEiShadow_run (s : State) v : (s.setEiShadow v).run = s.run := rfl
@[simp] theorem setEiShadow_eiShadow (s : State) v : (s.setEiShadow v).eiShadow = v := rfl
@[simp] theorem setEiShadow_mem (s : State) v : (s.setEiShadow v).mem = s.mem := rfl
@[simp] theorem setEiShadow_inputs (s : State) v : (s.setEiShadow v).inputs = s.inputs := rfl
@[simp] theorem setEiShadow_unbacked (s : State) v : (s.setEiShadow v).unbacked = s.unbacked := rfl
@[simp] theorem setEiShadow_admits (s : State) v k a : (s.setEiShadow v).admits k a = s.admits k a := rfl

@[simp] theorem setMem_pc (s : State) v : (s.setMem v).pc = s.pc := rfl
@[simp] theorem setMem_sp (s : State) v : (s.setMem v).sp = s.sp := rfl
@[simp] theorem setMem_b (s : State) v : (s.setMem v).b = s.b := rfl
@[simp] theorem setMem_hl (s : State) v : (s.setMem v).hl = s.hl := rfl
@[simp] theorem setMem_ix (s : State) v : (s.setMem v).ix = s.ix := rfl
@[simp] theorem setMem_iy (s : State) v : (s.setMem v).iy = s.iy := rfl
@[simp] theorem setMem_i (s : State) v : (s.setMem v).i = s.i := rfl
@[simp] theorem setMem_flags (s : State) v : (s.setMem v).flags = s.flags := rfl
@[simp] theorem setMem_ief1 (s : State) v : (s.setMem v).ief1 = s.ief1 := rfl
@[simp] theorem setMem_ief2 (s : State) v : (s.setMem v).ief2 = s.ief2 := rfl
@[simp] theorem setMem_im (s : State) v : (s.setMem v).im = s.im := rfl
@[simp] theorem setMem_madl (s : State) v : (s.setMem v).madl = s.madl := rfl
@[simp] theorem setMem_run (s : State) v : (s.setMem v).run = s.run := rfl
@[simp] theorem setMem_eiShadow (s : State) v : (s.setMem v).eiShadow = s.eiShadow := rfl
@[simp] theorem setMem_mem (s : State) v : (s.setMem v).mem = v := rfl
@[simp] theorem setMem_inputs (s : State) v : (s.setMem v).inputs = s.inputs := rfl
@[simp] theorem setMem_unbacked (s : State) v : (s.setMem v).unbacked = s.unbacked := rfl
@[simp] theorem setMem_admits (s : State) v k a : (s.setMem v).admits k a = s.admits k a := rfl

@[simp] theorem setInputs_pc (s : State) v : (s.setInputs v).pc = s.pc := rfl
@[simp] theorem setInputs_sp (s : State) v : (s.setInputs v).sp = s.sp := rfl
@[simp] theorem setInputs_b (s : State) v : (s.setInputs v).b = s.b := rfl
@[simp] theorem setInputs_hl (s : State) v : (s.setInputs v).hl = s.hl := rfl
@[simp] theorem setInputs_ix (s : State) v : (s.setInputs v).ix = s.ix := rfl
@[simp] theorem setInputs_iy (s : State) v : (s.setInputs v).iy = s.iy := rfl
@[simp] theorem setInputs_i (s : State) v : (s.setInputs v).i = s.i := rfl
@[simp] theorem setInputs_flags (s : State) v : (s.setInputs v).flags = s.flags := rfl
@[simp] theorem setInputs_ief1 (s : State) v : (s.setInputs v).ief1 = s.ief1 := rfl
@[simp] theorem setInputs_ief2 (s : State) v : (s.setInputs v).ief2 = s.ief2 := rfl
@[simp] theorem setInputs_im (s : State) v : (s.setInputs v).im = s.im := rfl
@[simp] theorem setInputs_madl (s : State) v : (s.setInputs v).madl = s.madl := rfl
@[simp] theorem setInputs_run (s : State) v : (s.setInputs v).run = s.run := rfl
@[simp] theorem setInputs_eiShadow (s : State) v : (s.setInputs v).eiShadow = s.eiShadow := rfl
@[simp] theorem setInputs_mem (s : State) v : (s.setInputs v).mem = s.mem := rfl
@[simp] theorem setInputs_inputs (s : State) v : (s.setInputs v).inputs = v := rfl
@[simp] theorem setInputs_unbacked (s : State) v : (s.setInputs v).unbacked = s.unbacked := rfl
@[simp] theorem setInputs_admits (s : State) v k a : (s.setInputs v).admits k a = s.admits k a := rfl

@[simp] theorem setUnbacked_pc (s : State) v : (s.setUnbacked v).pc = s.pc := rfl
@[simp] theorem setUnbacked_sp (s : State) v : (s.setUnbacked v).sp = s.sp := rfl
@[simp] theorem setUnbacked_b (s : State) v : (s.setUnbacked v).b = s.b := rfl
@[simp] theorem setUnbacked_hl (s : State) v : (s.setUnbacked v).hl = s.hl := rfl
@[simp] theorem setUnbacked_ix (s : State) v : (s.setUnbacked v).ix = s.ix := rfl
@[simp] theorem setUnbacked_iy (s : State) v : (s.setUnbacked v).iy = s.iy := rfl
@[simp] theorem setUnbacked_i (s : State) v : (s.setUnbacked v).i = s.i := rfl
@[simp] theorem setUnbacked_flags (s : State) v : (s.setUnbacked v).flags = s.flags := rfl
@[simp] theorem setUnbacked_ief1 (s : State) v : (s.setUnbacked v).ief1 = s.ief1 := rfl
@[simp] theorem setUnbacked_ief2 (s : State) v : (s.setUnbacked v).ief2 = s.ief2 := rfl
@[simp] theorem setUnbacked_im (s : State) v : (s.setUnbacked v).im = s.im := rfl
@[simp] theorem setUnbacked_madl (s : State) v : (s.setUnbacked v).madl = s.madl := rfl
@[simp] theorem setUnbacked_run (s : State) v : (s.setUnbacked v).run = s.run := rfl
@[simp] theorem setUnbacked_eiShadow (s : State) v : (s.setUnbacked v).eiShadow = s.eiShadow := rfl
@[simp] theorem setUnbacked_mem (s : State) v : (s.setUnbacked v).mem = s.mem := rfl
@[simp] theorem setUnbacked_inputs (s : State) v : (s.setUnbacked v).inputs = s.inputs := rfl
@[simp] theorem setUnbacked_unbacked (s : State) v : (s.setUnbacked v).unbacked = v := rfl
@[simp] theorem setUnbacked_admits (s : State) v k a : (s.setUnbacked v).admits k a = v.all (fun r => !r.denies k a) := rfl

@[simp] theorem takeInput_pc (s : State) : s.takeInput.pc = s.pc := rfl
@[simp] theorem takeInput_sp (s : State) : s.takeInput.sp = s.sp := rfl
@[simp] theorem takeInput_b (s : State) : s.takeInput.b = s.b := rfl
@[simp] theorem takeInput_hl (s : State) : s.takeInput.hl = s.hl := rfl
@[simp] theorem takeInput_ix (s : State) : s.takeInput.ix = s.ix := rfl
@[simp] theorem takeInput_iy (s : State) : s.takeInput.iy = s.iy := rfl
@[simp] theorem takeInput_i (s : State) : s.takeInput.i = s.i := rfl
@[simp] theorem takeInput_flags (s : State) : s.takeInput.flags = s.flags := rfl
@[simp] theorem takeInput_ief1 (s : State) : s.takeInput.ief1 = s.ief1 := rfl
@[simp] theorem takeInput_ief2 (s : State) : s.takeInput.ief2 = s.ief2 := rfl
@[simp] theorem takeInput_im (s : State) : s.takeInput.im = s.im := rfl
@[simp] theorem takeInput_madl (s : State) : s.takeInput.madl = s.madl := rfl
@[simp] theorem takeInput_run (s : State) : s.takeInput.run = s.run := rfl
@[simp] theorem takeInput_eiShadow (s : State) : s.takeInput.eiShadow = s.eiShadow := rfl
@[simp] theorem takeInput_mem (s : State) : s.takeInput.mem = s.mem := rfl
@[simp] theorem takeInput_inputs (s : State) : s.takeInput.inputs = s.inputs.tail := rfl
@[simp] theorem takeInput_unbacked (s : State) : s.takeInput.unbacked = s.unbacked := rfl
@[simp] theorem takeInput_admits (s : State) k a : s.takeInput.admits k a = s.admits k a := rfl

@[simp] theorem takeReset_pc (s : State) : (takeReset s).pc = State.reset.pc := rfl
@[simp] theorem takeReset_sp (s : State) : (takeReset s).sp = State.reset.sp := rfl
@[simp] theorem takeReset_b (s : State) : (takeReset s).b = State.reset.b := rfl
@[simp] theorem takeReset_hl (s : State) : (takeReset s).hl = State.reset.hl := rfl
@[simp] theorem takeReset_ix (s : State) : (takeReset s).ix = State.reset.ix := rfl
@[simp] theorem takeReset_iy (s : State) : (takeReset s).iy = State.reset.iy := rfl
@[simp] theorem takeReset_i (s : State) : (takeReset s).i = State.reset.i := rfl
@[simp] theorem takeReset_flags (s : State) : (takeReset s).flags = State.reset.flags := rfl
@[simp] theorem takeReset_ief1 (s : State) : (takeReset s).ief1 = State.reset.ief1 := rfl
@[simp] theorem takeReset_ief2 (s : State) : (takeReset s).ief2 = State.reset.ief2 := rfl
@[simp] theorem takeReset_im (s : State) : (takeReset s).im = State.reset.im := rfl
@[simp] theorem takeReset_madl (s : State) : (takeReset s).madl = State.reset.madl := rfl
@[simp] theorem takeReset_run (s : State) : (takeReset s).run = State.reset.run := rfl
@[simp] theorem takeReset_eiShadow (s : State) : (takeReset s).eiShadow = State.reset.eiShadow := rfl
@[simp] theorem takeReset_mem (s : State) : (takeReset s).mem = s.mem := rfl
@[simp] theorem takeReset_inputs (s : State) : (takeReset s).inputs = s.inputs := rfl
@[simp] theorem takeReset_unbacked (s : State) : (takeReset s).unbacked = s.unbacked := rfl

theorem ext {s t : State}
    (h_pc : s.pc = t.pc) (h_sp : s.sp = t.sp) (h_b : s.b = t.b) (h_hl : s.hl = t.hl) (h_ix : s.ix = t.ix) (h_iy : s.iy = t.iy) (h_i : s.i = t.i) (h_flags : s.flags = t.flags) (h_ief1 : s.ief1 = t.ief1) (h_ief2 : s.ief2 = t.ief2) (h_im : s.im = t.im) (h_madl : s.madl = t.madl) (h_run : s.run = t.run) (h_eiShadow : s.eiShadow = t.eiShadow) (h_mem : s.mem = t.mem) (h_inputs : s.inputs = t.inputs) (h_unbacked : s.unbacked = t.unbacked) : s = t := by
  cases s; cases t; simp_all

end Sys2Proof.Machine.State
end

