-- ==== Sys2Proof/Laws/Stack.lean ====
section
/-! SUPPORT. What the stack operations, a call, a return, an interrupt entry and the acceptances can do: one lemma each for
going on, and one for stopping. -/

namespace Sys2Proof.Machine

variable {s t : State} {v target : Addr} {f : Fault}

theorem Addr.sub_one_sub_one (a : Addr) : a - 1#24 - 1#24 = a - 2#24 := by bv_omega

theorem Addr.sub_two_sub_one (a : Addr) : a - 2#24 - 1#24 = a - 3#24 := by bv_omega

theorem Addr.add_one_add_one (a : Addr) : a + 1#24 + 1#24 = a + 2#24 := by bv_omega

theorem Addr.add_two_add_one (a : Addr) : a + 2#24 + 1#24 = a + 3#24 := by bv_omega

/-! ### Reading several bytes -/

/-- Reads, whole: the first address not admitted stops them; otherwise the bytes in order. -/
theorem readBytes_eq (as : List Addr) (s : State) :
    readBytes as s =
      (match as.find? (fun a => !s.admits .read a) with
        | some a => .error (.notAdmitted .read a)
        | none => .ok (as.map s.mem.read)) := by
  induction as with
  | nil => rfl
  | cons a as ih =>
    by_cases h : s.admits .read a = true
    · simp only [readBytes, readByte, h, if_true, ih, List.find?_cons, Bool.not_true, List.map_cons]
      cases as.find? (fun a => !s.admits .read a) <;> rfl
    · simp [readBytes, readByte, h]

theorem readBytes_ok {as : List Addr} (h : ∀ a ∈ as, s.admits .read a = true) : readBytes as s = .ok (as.map s.mem.read) := by
  have : as.find? (fun a => !s.admits .read a) = none := by simpa using h
  rw [readBytes_eq, this]

theorem readBytes_next {as : List Addr} {bytes : List Byte} (h : readBytes as s = .ok bytes) :
    (∀ a ∈ as, s.admits .read a = true) ∧ bytes = as.map s.mem.read := by
  rw [readBytes_eq] at h
  split at h
  · cases h
  · cases h; exact ⟨fun a ha => of_not_not fun hn => List.find?_eq_none.mp ‹_› a ha (by simp [hn]), rfl⟩

/-! ### Push and pop -/

/-- The state after a push of `v` (R55). -/
def State.afterPush (s : State) (v : Addr) : State :=
  (s.setSp (s.sp - 3#24)).setMem
    (((s.mem.write (s.sp - 1#24) (hiByte v)).write (s.sp - 2#24) (midByte v)).write (s.sp - 3#24) (loByte v))

@[simp] theorem State.afterPush_pc (s : State) (v : Addr) : (s.afterPush v).pc = s.pc := rfl
@[simp] theorem State.afterPush_sp (s : State) (v : Addr) : (s.afterPush v).sp = s.sp - 3#24 := rfl
@[simp] theorem State.afterPush_b (s : State) (v : Addr) : (s.afterPush v).b = s.b := rfl
@[simp] theorem State.afterPush_hl (s : State) (v : Addr) : (s.afterPush v).hl = s.hl := rfl
@[simp] theorem State.afterPush_ix (s : State) (v : Addr) : (s.afterPush v).ix = s.ix := rfl
@[simp] theorem State.afterPush_iy (s : State) (v : Addr) : (s.afterPush v).iy = s.iy := rfl
@[simp] theorem State.afterPush_i (s : State) (v : Addr) : (s.afterPush v).i = s.i := rfl
@[simp] theorem State.afterPush_flags (s : State) (v : Addr) : (s.afterPush v).flags = s.flags := rfl
@[simp] theorem State.afterPush_ief1 (s : State) (v : Addr) : (s.afterPush v).ief1 = s.ief1 := rfl
@[simp] theorem State.afterPush_ief2 (s : State) (v : Addr) : (s.afterPush v).ief2 = s.ief2 := rfl
@[simp] theorem State.afterPush_im (s : State) (v : Addr) : (s.afterPush v).im = s.im := rfl
@[simp] theorem State.afterPush_madl (s : State) (v : Addr) : (s.afterPush v).madl = s.madl := rfl
@[simp] theorem State.afterPush_run (s : State) (v : Addr) : (s.afterPush v).run = s.run := rfl
@[simp] theorem State.afterPush_eiShadow (s : State) (v : Addr) : (s.afterPush v).eiShadow = s.eiShadow := rfl
@[simp] theorem State.afterPush_inputs (s : State) (v : Addr) : (s.afterPush v).inputs = s.inputs := rfl
@[simp] theorem State.afterPush_unbacked (s : State) (v : Addr) : (s.afterPush v).unbacked = s.unbacked := rfl

theorem pushByte_eq (w : Byte) (s : State) :
    pushByte w s = if s.admits .write (s.sp - 1#24) = true then
      .ok ((s.setSp (s.sp - 1#24)).setMem (s.mem.write (s.sp - 1#24) w)) else .error (.notAdmitted .write (s.sp - 1#24)) := by
  simp only [pushByte, writeByte, State.setSp_admits]
  rfl

theorem popByte_eq (s : State) :
    popByte s = if s.admits .read s.sp = true then .ok (s.mem.read s.sp, s.setSp (s.sp + 1#24))
      else .error (.notAdmitted .read s.sp) := by
  unfold popByte readByte
  by_cases h : s.admits .read s.sp = true <;> simp [h]

/-- A push, whole: the three writes in the order of R55, the first one not admitted stops it. -/
theorem push24_eq (v : Addr) (s : State) :
    push24 v s =
      if s.admits .write (s.sp - 1#24) = true then
        if s.admits .write (s.sp - 2#24) = true then
          if s.admits .write (s.sp - 3#24) = true then .ok (s.afterPush v)
          else .error (.notAdmitted .write (s.sp - 3#24))
        else .error (.notAdmitted .write (s.sp - 2#24))
      else .error (.notAdmitted .write (s.sp - 1#24)) := by
  simp only [push24, pushByte_eq]
  by_cases h1 : s.admits .write (s.sp - 1#24) = true <;>
    by_cases h2 : s.admits .write (s.sp - 2#24) = true <;>
      by_cases h3 : s.admits .write (s.sp - 3#24) = true <;>
        simp [h1, h2, h3, Addr.sub_one_sub_one, Addr.sub_two_sub_one, State.afterPush]
  rfl

/-- A pop, whole: the three reads in the order of R56, the first one not admitted stops it. -/
theorem pop24_eq (s : State) :
    pop24 s =
      if s.admits .read s.sp = true then
        if s.admits .read (s.sp + 1#24) = true then
          if s.admits .read (s.sp + 2#24) = true then .ok (s.stackTop, s.setSp (s.sp + 3#24))
          else .error (.notAdmitted .read (s.sp + 2#24))
        else .error (.notAdmitted .read (s.sp + 1#24))
      else .error (.notAdmitted .read s.sp) := by
  simp only [pop24, popByte_eq]
  by_cases h1 : s.admits .read s.sp = true <;>
    by_cases h2 : s.admits .read (s.sp + 1#24) = true <;>
      by_cases h3 : s.admits .read (s.sp + 2#24) = true <;>
        simp [h1, h2, h3, Addr.add_one_add_one, Addr.add_two_add_one, State.stackTop, addrOfBytes]
  rfl

theorem push24_ok (h : s.pushReady) : push24 v s = .ok (s.afterPush v) := by simp [push24_eq, h]

theorem pop24_ok (h : s.popReady) : pop24 s = .ok (s.stackTop, s.setSp (s.sp + 3#24)) := by simp [pop24_eq, h]

theorem push24_next (h : push24 v s = .ok t) : s.pushReady ∧ t = s.afterPush v := by
  rw [push24_eq] at h
  split at h
  · split at h
    · split at h
      · cases h; exact ⟨⟨‹_›, ‹_›, ‹_›⟩, rfl⟩
      · cases h
    · cases h
  · cases h

theorem pop24_next {p : Addr × State} (h : pop24 s = .ok p) : s.popReady ∧ p = (s.stackTop, s.setSp (s.sp + 3#24)) := by
  rw [pop24_eq] at h
  split at h
  · split at h
    · split at h
      · cases h; exact ⟨⟨‹_›, ‹_›, ‹_›⟩, rfl⟩
      · cases h
    · cases h
  · cases h

theorem push24_error (h : push24 v s = .error f) :
    ∃ a, s.pushes a ∧ f = .notAdmitted .write a ∧ s.admits .write a = false := by
  rw [push24_eq] at h
  split at h
  · split at h
    · split at h
      · cases h
      · cases h; exact ⟨_, .inr (.inr rfl), rfl, Bool.eq_false_iff.mpr ‹_›⟩
    · cases h; exact ⟨_, .inr (.inl rfl), rfl, Bool.eq_false_iff.mpr ‹_›⟩
  · cases h; exact ⟨_, .inl rfl, rfl, Bool.eq_false_iff.mpr ‹_›⟩

theorem pop24_error (h : pop24 s = .error f) :
    ∃ a, s.pops a ∧ f = .notAdmitted .read a ∧ s.admits .read a = false := by
  rw [pop24_eq] at h
  split at h
  · split at h
    · split at h
      · cases h
      · cases h; exact ⟨_, .inr (.inr rfl), rfl, Bool.eq_false_iff.mpr ‹_›⟩
    · cases h; exact ⟨_, .inr (.inl rfl), rfl, Bool.eq_false_iff.mpr ‹_›⟩
  · cases h; exact ⟨_, .inl rfl, rfl, Bool.eq_false_iff.mpr ‹_›⟩

/-- What a push leaves: the image of R55, and every other byte as before. -/
theorem State.afterPush_pushed (s : State) (v : Addr) : s.Pushed (s.afterPush v) v := by
  have h12 : s.sp - 1#24 ≠ s.sp - 2#24 := by bv_omega
  have h13 : s.sp - 1#24 ≠ s.sp - 3#24 := by bv_omega
  have h23 : s.sp - 2#24 ≠ s.sp - 3#24 := by bv_omega
  refine ⟨rfl, ?_, ?_, ?_, ?_⟩
  · simp [State.afterPush, loByte]
  · simp [State.afterPush, h23, midByte]
  · simp [State.afterPush, h12, h13, hiByte]
  · intro a h1 h2 h3
    simp [State.afterPush, h1, h2, h3]

theorem State.afterPush_registers (s : State) (v : Addr) : s.SameRegisters (s.afterPush v) :=
  ⟨rfl, rfl, rfl, rfl, rfl, rfl, rfl, rfl, rfl⟩

theorem State.afterPush_control (s : State) (v : Addr) : s.SameControl (s.afterPush v) := ⟨rfl, rfl, rfl, rfl, rfl⟩

theorem State.afterPush_wf (h : s.mem.wf) (v : Addr) : (s.afterPush v).mem.wf :=
  Memory.wf_write (Memory.wf_write (Memory.wf_write h _ _) _ _) _ _

/-! ### Calls and returns -/

/-- A call, whole: the three writes in the order of R55, the first one not admitted stops it. -/
theorem callTo_eq (target : Addr) (s : State) :
    callTo target s =
      if s.admits .write (s.sp - 1#24) = true then
        if s.admits .write (s.sp - 2#24) = true then
          if s.admits .write (s.sp - 3#24) = true then .next ((s.afterPush s.pc).setPc target)
          else .fault (.notAdmitted .write (s.sp - 3#24))
        else .fault (.notAdmitted .write (s.sp - 2#24))
      else .fault (.notAdmitted .write (s.sp - 1#24)) := by
  rw [callTo, push24_eq]
  by_cases h1 : s.admits .write (s.sp - 1#24) = true <;>
    by_cases h2 : s.admits .write (s.sp - 2#24) = true <;>
      by_cases h3 : s.admits .write (s.sp - 3#24) = true <;> simp [h1, h2, h3]

theorem callTo_ok (h : s.pushReady) : callTo target s = .next ((s.afterPush s.pc).setPc target) := by
  simp [callTo, push24_ok h]

theorem callTo_next (h : callTo target s = .next t) : s.pushReady ∧ t = (s.afterPush s.pc).setPc target := by
  unfold callTo at h
  split at h
  · cases h
  · cases h
    obtain ⟨hr, rfl⟩ := push24_next ‹_›
    exact ⟨hr, rfl⟩

theorem callTo_fault (h : callTo target s = .fault f) :
    ∃ a, s.pushes a ∧ f = .notAdmitted .write a ∧ s.admits .write a = false := by
  unfold callTo at h
  split at h
  · cases h; exact push24_error ‹_›
  · cases h

theorem callTo_not_refused {r : Refusal} : callTo target s ≠ .refused r := by
  unfold callTo; split <;> simp

/-- What a call leaves (R122). -/
theorem State.afterPush_called (s : State) (target : Addr) : s.Called ((s.afterPush s.pc).setPc target) target := by
  obtain ⟨h1, h2, h3, h4, h5⟩ := s.afterPush_pushed s.pc
  exact ⟨rfl, ⟨h1, h2, h3, h4, h5⟩, ⟨rfl, rfl, rfl, rfl, rfl, rfl, rfl, rfl, rfl⟩, ⟨rfl, rfl, rfl, rfl, rfl⟩⟩

theorem returnTop_ok (h : s.popReady) : returnTop s = .next ((s.setSp (s.sp + 3#24)).setPc s.stackTop) := by
  simp [returnTop, pop24_ok h]

theorem returnTop_next (h : returnTop s = .next t) : s.popReady ∧ t = (s.setSp (s.sp + 3#24)).setPc s.stackTop := by
  unfold returnTop at h
  split at h
  · cases h
  · cases h
    obtain ⟨hr, hp⟩ := pop24_next ‹_›
    cases hp
    exact ⟨hr, rfl⟩

theorem returnTop_fault (h : returnTop s = .fault f) :
    ∃ a, s.pops a ∧ f = .notAdmitted .read a ∧ s.admits .read a = false := by
  unfold returnTop at h
  split at h
  · cases h; exact pop24_error ‹_›
  · cases h

theorem returnTop_not_refused {r : Refusal} : returnTop s ≠ .refused r := by
  unfold returnTop; split <;> simp

theorem returnFromNmi_ok (h : s.popReady) :
    returnFromNmi s = .next (((s.setSp (s.sp + 3#24)).setPc s.stackTop).setIef1 s.ief2) := by
  simp [returnFromNmi, pop24_ok h]

theorem returnFromNmi_next (h : returnFromNmi s = .next t) :
    s.popReady ∧ t = ((s.setSp (s.sp + 3#24)).setPc s.stackTop).setIef1 s.ief2 := by
  unfold returnFromNmi at h
  split at h
  · cases h
  · cases h
    obtain ⟨hr, hp⟩ := pop24_next ‹_›
    cases hp
    exact ⟨hr, rfl⟩

theorem returnFromNmi_fault (h : returnFromNmi s = .fault f) :
    ∃ a, s.pops a ∧ f = .notAdmitted .read a ∧ s.admits .read a = false := by
  unfold returnFromNmi at h
  split at h
  · cases h; exact pop24_error ‹_›
  · cases h

theorem returnFromNmi_not_refused {r : Refusal} : returnFromNmi s ≠ .refused r := by
  unfold returnFromNmi; split <;> simp

/-! ### Taking an interrupt -/

/-- The state an interrupt entry leaves (R155). -/
def State.afterEntry (s : State) (target : Addr) : State :=
  (((s.setRun .running).setEiShadow false).afterPush s.pc).setPc target

@[simp] theorem State.afterEntry_pc (s : State) (target : Addr) : (s.afterEntry target).pc = target := rfl
@[simp] theorem State.afterEntry_sp (s : State) (target : Addr) : (s.afterEntry target).sp = s.sp - 3#24 := rfl
@[simp] theorem State.afterEntry_b (s : State) (target : Addr) : (s.afterEntry target).b = s.b := rfl
@[simp] theorem State.afterEntry_hl (s : State) (target : Addr) : (s.afterEntry target).hl = s.hl := rfl
@[simp] theorem State.afterEntry_ix (s : State) (target : Addr) : (s.afterEntry target).ix = s.ix := rfl
@[simp] theorem State.afterEntry_iy (s : State) (target : Addr) : (s.afterEntry target).iy = s.iy := rfl
@[simp] theorem State.afterEntry_i (s : State) (target : Addr) : (s.afterEntry target).i = s.i := rfl
@[simp] theorem State.afterEntry_flags (s : State) (target : Addr) : (s.afterEntry target).flags = s.flags := rfl
@[simp] theorem State.afterEntry_ief1 (s : State) (target : Addr) : (s.afterEntry target).ief1 = s.ief1 := rfl
@[simp] theorem State.afterEntry_ief2 (s : State) (target : Addr) : (s.afterEntry target).ief2 = s.ief2 := rfl
@[simp] theorem State.afterEntry_im (s : State) (target : Addr) : (s.afterEntry target).im = s.im := rfl
@[simp] theorem State.afterEntry_madl (s : State) (target : Addr) : (s.afterEntry target).madl = s.madl := rfl
@[simp] theorem State.afterEntry_run (s : State) (target : Addr) : (s.afterEntry target).run = .running := rfl
@[simp] theorem State.afterEntry_eiShadow (s : State) (target : Addr) : (s.afterEntry target).eiShadow = false := rfl
@[simp] theorem State.afterEntry_inputs (s : State) (target : Addr) : (s.afterEntry target).inputs = s.inputs := rfl
@[simp] theorem State.afterEntry_unbacked (s : State) (target : Addr) : (s.afterEntry target).unbacked = s.unbacked := rfl

/-- The bytes a push writes do not depend on the other fields of the state. -/
theorem State.afterPush_mem (s : State) (v : Addr) :
    (s.afterPush v).mem =
      ((s.mem.write (s.sp - 1#24) (hiByte v)).write (s.sp - 2#24) (midByte v)).write (s.sp - 3#24) (loByte v) := rfl

theorem State.afterEntry_mem (s : State) (target : Addr) : (s.afterEntry target).mem = (s.afterPush s.pc).mem := by
  simp only [State.afterEntry, State.setPc_mem, State.afterPush_mem, State.setEiShadow_mem, State.setRun_mem,
    State.setEiShadow_sp, State.setRun_sp]

/-- What an entry leaves (R155): seen from a state that differs from the one entered at most in the interrupt flags and in the
input just taken. -/
theorem State.afterEntry_interrupted (s : State) (target : Addr) (a b : Bool) :
    s.Interrupted (((s.takeInput.setIef1 a).setIef2 b).afterEntry target) target := by
  have hp := s.afterPush_pushed s.pc
  have hm : (((s.takeInput.setIef1 a).setIef2 b).afterEntry target).mem = (s.afterPush s.pc).mem := by
    simp [State.afterEntry_mem, State.afterPush_mem]
  have hr : s.SameRegisters (((s.takeInput.setIef1 a).setIef2 b).afterEntry target) := by
    constructor <;> simp
  refine ⟨by simp, ⟨by simp, ?_, ?_, ?_, ?_⟩, by simp, by simp, by simp, hr⟩
  · rw [hm]; exact hp.low
  · rw [hm]; exact hp.mid
  · rw [hm]; exact hp.high
  · intro c h1 h2 h3; rw [hm]; exact hp.others c h1 h2 h3

theorem enterInterrupt_ok (hm : s.madl = false) (h : s.pushReady) :
    enterInterrupt (.ok target) s = .next (s.afterEntry target) := by
  have : ((s.setRun .running).setEiShadow false).pushReady := h
  simp [enterInterrupt, hm, callTo_ok this, State.afterEntry]

theorem enterInterrupt_next {o : Except Fault Addr} (h : enterInterrupt o s = .next t) :
    ∃ target, o = .ok target ∧ s.madl = false ∧ s.pushReady ∧ t = s.afterEntry target := by
  unfold enterInterrupt at h
  split at h
  · cases h
  · split at h
    · cases h
    · obtain ⟨hr, ht⟩ := callTo_next h
      exact ⟨_, rfl, Bool.eq_false_iff.mpr ‹_›, hr, ht⟩

theorem enterInterrupt_refused {o : Except Fault Addr} (hm : s.madl = true) :
    enterInterrupt o s = .refused .mixedModeAcceptance := by
  simp [enterInterrupt, hm]

/-- The target of a mode 2 acceptance, whole: the first read not admitted stops it. -/
theorem im2Entry_eq (d : Byte) (s : State) :
    im2Entry d s =
      (match (Config.im2Reads (im2Word s.i d)).find? (fun a => !s.admits .read a) with
        | some a => .error (.notAdmitted .read a)
        | none => .ok (Config.im2Target (im2Word s.i d) ((Config.im2Reads (im2Word s.i d)).map s.mem.read))) := by
  rw [im2Entry, readBytes_eq]
  cases (Config.im2Reads (im2Word s.i d)).find? (fun a => !s.admits .read a) <;> rfl

theorem im2Entry_ok {d : Byte} (h : ∀ a ∈ Config.im2Reads (im2Word s.i d), s.admits .read a = true) :
    im2Entry d s = .ok (Config.im2Target (im2Word s.i d) ((Config.im2Reads (im2Word s.i d)).map s.mem.read)) := by
  simp [im2Entry, readBytes_ok h]

theorem im2Entry_next {d : Byte} (h : im2Entry d s = .ok target) :
    (∀ a ∈ Config.im2Reads (im2Word s.i d), s.admits .read a = true) ∧
      target = Config.im2Target (im2Word s.i d) ((Config.im2Reads (im2Word s.i d)).map s.mem.read) := by
  unfold im2Entry at h
  split at h
  · cases h
  · cases h
    obtain ⟨ha, rfl⟩ := readBytes_next ‹_›
    exact ⟨ha, rfl⟩

theorem im2Word_eq (i : BitVec 16) (d : Byte) : im2Word i d = BitVec.ofNat 16 (i.toNat % 256 * 256 + d.toNat) := by
  apply BitVec.eq_of_toNat_eq
  rw [im2Word, BitVec.toNat_append, ← Nat.shiftLeft_add_eq_or_of_lt d.isLt]
  have := d.isLt
  simp [Nat.shiftLeft_eq]
  omega

theorem insertedRst_rst : ∀ t : BitVec 3, insertedRst (BitVec.ofNat 8 (0xC7 + 8 * t.toNat)) = some t := by decide

theorem restartTarget_eq : ∀ t : BitVec 3, restartTarget t = BitVec.ofNat 24 (8 * t.toNat) := by decide

/-- A maskable acceptance that has a target is an entry there, with both flags reset (R159). -/
theorem acceptInt_at (h : s.intTarget target) :
    acceptInt s.input.device s.takeInput = enterInterrupt (.ok target) ((s.takeInput.setIef1 false).setIef2 false) := by
  unfold acceptInt
  rcases h with ⟨hm, t, hd, rfl⟩ | ⟨hm, rfl⟩ | ⟨hm, ht, rfl⟩
  · simp only [State.takeInput_im, hm, hd, insertedRst_rst, restartTarget_eq]
  · simp only [State.takeInput_im, hm]
  · have hw : im2Word s.takeInput.i s.input.device = s.im2Value := im2Word_eq _ _
    simp only [State.takeInput_im, hm, im2Entry_ok (s := s.takeInput) (by rw [hw]; exact ht), hw]
    rfl

/-- A maskable acceptance that goes on resets both flags and enters at one of the three modes' targets (R159). -/
theorem acceptInt_next {d : Byte} (h : acceptInt d s = .next t) :
    ∃ target, s.madl = false ∧ s.pushReady ∧ t = ((s.setIef1 false).setIef2 false).afterEntry target ∧
      ((s.im = .mode0 ∧ ∃ r, insertedRst d = some r ∧ target = restartTarget r) ∨
        (s.im = .mode1 ∧ target = 0x000038#24) ∨
        (s.im = .mode2 ∧ (∀ a ∈ Config.im2Reads (im2Word s.i d), s.admits .read a = true) ∧
          target = Config.im2Target (im2Word s.i d) ((Config.im2Reads (im2Word s.i d)).map s.mem.read))) := by
  unfold acceptInt at h
  simp only at h
  split at h
  · split at h
    · obtain ⟨_, ho, h1, h2, h3⟩ := enterInterrupt_next h
      cases ho
      exact ⟨_, h1, h2, h3, .inl ⟨‹_›, _, ‹_›, rfl⟩⟩
    · cases h
  · obtain ⟨_, ho, h1, h2, h3⟩ := enterInterrupt_next h
    cases ho
    exact ⟨_, h1, h2, h3, .inr (.inl ⟨‹_›, rfl⟩)⟩
  · obtain ⟨_, ho, h1, h2, h3⟩ := enterInterrupt_next h
    exact ⟨_, h1, h2, h3, .inr (.inr ⟨‹_›, im2Entry_next ho⟩)⟩

/-- A nonmaskable acceptance that goes on resets `IEF1`, sets `IEF2` as `NMI_IEF2` says and enters at `NMI_VECTOR` (R160). -/
theorem acceptNmi_next (h : acceptNmi s = .next t) :
    s.madl = false ∧ s.pushReady ∧
      t = ((s.setIef1 false).setIef2 (if Config.nmiCopiesIef1 then s.ief1 else s.ief2)).afterEntry Config.nmiVector := by
  obtain ⟨_, ho, h1, h2, h3⟩ := enterInterrupt_next h
  cases ho
  exact ⟨h1, h2, h3⟩

end Sys2Proof.Machine
end

