-- ==== Sys2Proof/Laws/Fetch.lean ====
section
/-! SUPPORT. What a fetch, an instruction and a step can do: one inversion lemma each. -/

namespace Sys2Proof.Machine

variable {s t : State} {f : Fault}

theorem fetch8_eq (s : State) :
    fetch8 s = if s.admits .fetch s.pc = true then .ok (s.mem.read s.pc, s.setPc (s.pc + 1#24))
      else .error (.notAdmitted .fetch s.pc) := by
  unfold fetch8 readByte
  by_cases h : s.admits .fetch s.pc = true <;> simp [h]

theorem State.setPc_setPc (s : State) (v w : Addr) : (s.setPc v).setPc w = s.setPc w := rfl

/-- A fetch changes `PC` alone. -/
theorem fetchBytes_frame {n : Nat} {p : List Byte × State} (h : fetchBytes n s = .ok p) :
    p.2 = s.setPc (s.pc + BitVec.ofNat 24 n) ∧ p.1.length = n := by
  induction n generalizing s p with
  | zero => cases h; exact ⟨by simp [State.setPc], rfl⟩
  | succ n ih =>
    rw [fetchBytes, fetch8_eq] at h
    by_cases ha : s.admits .fetch s.pc = true
    · simp only [ha, if_true] at h
      split at h
      · cases h
      · cases h
        obtain ⟨h1, h2⟩ := ih ‹_›
        simp only at h1 h2
        refine ⟨?_, by simp [h2]⟩
        simp only [h1, State.setPc_setPc, State.setPc_pc]
        congr 1
        rw [BitVec.add_assoc]
        congr 1
        apply BitVec.eq_of_toNat_eq
        simp [BitVec.toNat_add, Nat.add_comm]
    · simp [ha] at h

/-- The instruction fetch changes `PC` alone, by the number of bytes it read (R54). -/
theorem fetchInstr_frame {bytes : List Byte} (h : fetchInstr s = .ok (bytes, t)) :
    t = s.setPc (s.pc + BitVec.ofNat 24 bytes.length) := by
  rw [fetchInstr, fetch8_eq] at h
  by_cases ha : s.admits .fetch s.pc = true
  · simp only [ha, if_true] at h
    split at h
    · cases h
    · cases h
      obtain ⟨h1, h2⟩ := fetchBytes_frame ‹_›
      simp only at h1 h2
      simp only [h1, h2, State.setPc_setPc, State.setPc_pc, List.length_cons]
      congr 1
      rw [BitVec.add_assoc]
      congr 1
      apply BitVec.eq_of_toNat_eq
      simp [BitVec.toNat_add, Nat.add_comm]
  · simp [ha] at h

/-- What `settle` makes of a next state. -/
theorem settle_next {i : Instr} {o : Outcome} (h : settle i o = .next t) :
    ∃ u, o = .next u ∧ t = if i = .ei then u else u.setEiShadow false := by
  unfold settle at h
  split at h
  · refine ⟨_, rfl, ?_⟩
    split at h <;> (cases h; simp_all)
  · cases h
  · cases h

/-- An instruction at `PC` that goes on was fetched, decoded and executed. -/
theorem runInstr_next (h : runInstr s = .next t) :
    ∃ bytes i rest u, decode bytes = .ok (i, rest) ∧
      exec i (s.setPc (s.pc + BitVec.ofNat 24 bytes.length)) = .next u ∧ t = if i = .ei then u else u.setEiShadow false := by
  unfold runInstr at h
  split at h
  · cases h
  · rename_i bytes p hf
    split at h
    · cases h
    · rename_i i rest hd
      obtain ⟨u, hu, ht⟩ := settle_next h
      rw [fetchInstr_frame hf] at hu
      exact ⟨bytes, i, rest, u, hd, hu, ht⟩

/-- All a step can do (R152). -/
theorem step_next (h : step s = .next t) :
    (s.input.reset = true ∧ t = takeReset s.takeInput) ∨
    (s.nmiAccepted ∧ acceptNmi s.takeInput = .next t) ∨
    (s.intAccepted ∧ acceptInt s.input.device s.takeInput = .next t) ∨
    (s.noEvent ∧ s.run = .running ∧ runInstr s.takeInput = .next t) ∨
    (s.noEvent ∧ s.run ≠ .running ∧ t = s.takeInput) := by
  unfold step boundary at h
  split at h
  · cases h; exact .inl ⟨‹_›, rfl⟩
  · rename_i hr
    split at h
    · exact .inr (.inl ⟨⟨by simpa using hr, ‹_›⟩, h⟩)
    · rename_i hn
      split at h
      · rename_i hi
        simp only [acceptsInt, Bool.and_eq_true, Bool.not_eq_true'] at hi
        exact .inr (.inr (.inl ⟨⟨by simpa using hr, by simpa using hn, hi.1.1, hi.1.2, hi.2⟩, h⟩))
      · rename_i hi
        have hq : s.noEvent := by
          refine ⟨by simpa using hr, by simpa using hn, fun hc => hi ?_⟩
          simp [acceptsInt, hc.1, hc.2.1, hc.2.2]
        split at h
        · exact .inr (.inr (.inr (.inl ⟨hq, ‹_›, h⟩)))
        · cases h; exact .inr (.inr (.inr (.inr ⟨hq, ‹_›, rfl⟩)))

/-- With no event and the CPU running, a step runs the instruction at `PC`. -/
theorem step_running (h : s.noEvent) (hr : s.run = .running) : step s = runInstr s.takeInput := by
  obtain ⟨h1, h2, h3⟩ := h
  have : acceptsInt s = false := by
    rw [Bool.eq_false_iff]
    intro hc
    simp only [acceptsInt, Bool.and_eq_true, Bool.not_eq_true'] at hc
    exact h3 ⟨hc.1.1, hc.1.2, hc.2⟩
  simp [step, boundary, h1, h2, this, hr]

theorem step_suspended (h : s.noEvent) (hr : s.run ≠ .running) : step s = .next s.takeInput := by
  obtain ⟨h1, h2, h3⟩ := h
  have : acceptsInt s = false := by
    rw [Bool.eq_false_iff]
    intro hc
    simp only [acceptsInt, Bool.and_eq_true, Bool.not_eq_true'] at hc
    exact h3 ⟨hc.1.1, hc.1.2, hc.2⟩
  simp [step, boundary, h1, h2, this, hr]

theorem step_nmi (h : s.nmiAccepted) : step s = acceptNmi s.takeInput := by
  simp [step, boundary, h.1, h.2]

theorem step_int (h : s.intAccepted) : step s = acceptInt s.input.device s.takeInput := by
  obtain ⟨h1, h2, h3, h4, h5⟩ := h
  simp [step, boundary, acceptsInt, h1, h2, h3, h4, h5]

/-- A step that accepts an interrupt which has a target enters it there (R155). -/
theorem step_enters {target : Addr} (h : s.entersAt target) :
    ∃ a b, step s = enterInterrupt (.ok target) ((s.takeInput.setIef1 a).setIef2 b) := by
  rcases h with ⟨h, rfl⟩ | ⟨h, ht⟩
  · exact ⟨_, _, step_nmi h⟩
  · exact ⟨_, _, (step_int h).trans (acceptInt_at ht)⟩

end Sys2Proof.Machine
end

