-- ==== Sys2Proof/Tests/Slice0.lean ====
section
/-! SUPPORT. Tests: the ill-formed terms, words of the spec decoded, one step per instruction on a small state with the result
the spec gives (95_test_vectors.md and the examples of the rules), and a witness for the hypotheses of every statement. -/

namespace Sys2Proof.Tests

open Sys2Proof Sys2Proof.Machine

/-! ### Ill-formed terms -/

theorem test_wf_refuses_jr_po : (Instr.jrCc .po 0x05#8).wellFormed = false := by decide
theorem test_wf_refuses_jr_pe : (Instr.jrCc .pe 0x05#8).wellFormed = false := by decide
theorem test_wf_refuses_jr_p : (Instr.jrCc .p 0x05#8).wellFormed = false := by decide
theorem test_wf_refuses_jr_m : (Instr.jrCc .m 0x05#8).wellFormed = false := by decide
theorem test_wf_accepts_jr_nc : (Instr.jrCc .nc 0x05#8).wellFormed = true := by decide

/-! ### Decoding: bytes of 95_test_vectors.md section 2.1 -/

/-- The instruction of the bytes, where nothing is left over. -/
def decoded (bytes : List Byte) : Option Instr :=
  match decode bytes with
  | .ok (i, []) => some i
  | .ok (_, _ :: _) => none
  | .error _ => none

/-- The reason the bytes are refused. -/
def refusal (bytes : List Byte) : Option Reject :=
  match decode bytes with
  | .ok _ => none
  | .error why => some why

theorem test_decode_00 : decoded [0x00#8] = some (.nop) := by decide
theorem test_decode_3F : decoded [0x3F#8] = some (.ccf) := by decide
theorem test_decode_37 : decoded [0x37#8] = some (.scf) := by decide
theorem test_decode_76 : decoded [0x76#8] = some (.halt) := by decide
theorem test_decode_F3 : decoded [0xF3#8] = some (.di) := by decide
theorem test_decode_FB : decoded [0xFB#8] = some (.ei) := by decide
theorem test_decode_ED_46 : decoded [0xED#8, 0x46#8] = some (.im0) := by decide
theorem test_decode_ED_56 : decoded [0xED#8, 0x56#8] = some (.im1) := by decide
theorem test_decode_ED_5E : decoded [0xED#8, 0x5E#8] = some (.im2) := by decide
theorem test_decode_ED_76 : decoded [0xED#8, 0x76#8] = some (.slp) := by decide
theorem test_decode_ED_7D : decoded [0xED#8, 0x7D#8] = some (.stmix) := by decide
theorem test_decode_ED_7E : decoded [0xED#8, 0x7E#8] = some (.rsmix) := by decide
theorem test_decode_ED_4D : decoded [0xED#8, 0x4D#8] = some (.reti) := by decide
theorem test_decode_ED_45 : decoded [0xED#8, 0x45#8] = some (.retn) := by decide
theorem test_decode_CD_56_34_12 : decoded [0xCD#8, 0x56#8, 0x34#8, 0x12#8] = some (.call 0x123456#24) := by decide
theorem test_decode_C4_56_34_12 : decoded [0xC4#8, 0x56#8, 0x34#8, 0x12#8] = some (.callCc .nz 0x123456#24) := by decide
theorem test_decode_FC_00_00_D0 : decoded [0xFC#8, 0x00#8, 0x00#8, 0xD0#8] = some (.callCc .m 0xD00000#24) := by decide
theorem test_decode_C3_56_34_12 : decoded [0xC3#8, 0x56#8, 0x34#8, 0x12#8] = some (.jp 0x123456#24) := by decide
theorem test_decode_EA_78_56_34 : decoded [0xEA#8, 0x78#8, 0x56#8, 0x34#8] = some (.jpCc .pe 0x345678#24) := by decide
theorem test_decode_E9 : decoded [0xE9#8] = some (.jpHl) := by decide
theorem test_decode_DD_E9 : decoded [0xDD#8, 0xE9#8] = some (.jpIx) := by decide
theorem test_decode_FD_E9 : decoded [0xFD#8, 0xE9#8] = some (.jpIy) := by decide
theorem test_decode_10_FE : decoded [0x10#8, 0xFE#8] = some (.djnz 0xFE#8) := by decide
theorem test_decode_18_7F : decoded [0x18#8, 0x7F#8] = some (.jr 0x7F#8) := by decide
theorem test_decode_20_80 : decoded [0x20#8, 0x80#8] = some (.jrCc .nz 0x80#8) := by decide
theorem test_decode_38_FF : decoded [0x38#8, 0xFF#8] = some (.jrCc .c 0xFF#8) := by decide
theorem test_decode_C9 : decoded [0xC9#8] = some (.ret) := by decide
theorem test_decode_E0 : decoded [0xE0#8] = some (.retCc .po) := by decide
theorem test_decode_F8 : decoded [0xF8#8] = some (.retCc .m) := by decide
theorem test_decode_C7 : decoded [0xC7#8] = some (.rst 0b000#3) := by decide
theorem test_decode_FF : decoded [0xFF#8] = some (.rst 0b111#3) := by decide
theorem test_refuse_ED_4E : refusal [0xED#8, 0x4E#8] = some (.imField01) := by decide
theorem test_refuse_ED_00 : refusal [0xED#8, 0x00#8] = some (.afterEd 0x00#8) := by decide
theorem test_refuse_DD_C9 : refusal [0xDD#8, 0xC9#8] = some (.afterIndex 0xDD#8 0xC9#8) := by decide
theorem test_refuse_DD_DD_E9 : refusal [0xDD#8, 0xDD#8, 0xE9#8] = some (.afterIndex 0xDD#8 0xDD#8) := by decide
theorem test_refuse_40 : refusal [0x40#8] = some (.firstByte 0x40#8) := by decide
theorem test_refuse_5B : refusal [0x5B#8] = some (.firstByte 0x5B#8) := by decide
theorem test_refuse_CB : refusal [0xCB#8] = some (.firstByte 0xCB#8) := by decide
theorem test_refuse_C6 : refusal [0xC6#8] = some (.firstByte 0xC6#8) := by decide
theorem test_refuse_3E : refusal [0x3E#8] = some (.firstByte 0x3E#8) := by decide

theorem test_table_word_im1 : decodeTableWord 16 0xED56 = some .im1 := by decide
theorem test_table_word_call_zero : decodeTableWord 8 0xCD = some (.call 0x000000#24) := by decide
theorem test_table_word_jp_cc : decodeTableWord 32 0xEA785634 = some (.jpCc .pe 0x345678#24) := by decide

/-! ### One step per instruction -/

/-- One step with the bytes placed at `PC`. -/
def stepOn (bytes : List Byte) (s : State) : Option State :=
  match step { s with mem := Memory.place bytes s.pc s.mem } with
  | .next t => some t
  | .fault _ => none
  | .refused _ => none

/-- A running state at `$010000` with the stack at `$100000`. -/
def base : State := { State.reset with pc := 0x010000#24, sp := 0x100000#24 }

/-- The three bytes from an address on, as they lie in memory. -/
def three (t : State) (a : Addr) : List Byte := [t.mem.read a, t.mem.read (a + 1#24), t.mem.read (a + 2#24)]

/-- Section 2.2 row 1. -/
theorem test_ccf_from_reset_carry :
    (stepOn [0x3F#8] { base with flags := { c := false, h := true, n := true, z := true, pv := false, s := true } }).map (fun t => (t.flags, t.pc)) = some ({ c := true, h := false, n := false, z := true, pv := false, s := true }, 0x010001#24) := by decide

/-- Section 2.2 row 2. -/
theorem test_ccf_from_set_carry :
    (stepOn [0x3F#8] { base with flags := { c := true, h := false, n := true, z := false, pv := true, s := false } }).map (fun t => t.flags) = some { c := false, h := true, n := false, z := false, pv := true, s := false } := by decide

/-- Section 2.2 row 6. -/
theorem test_scf :
    (stepOn [0x37#8] { base with flags := { c := false, h := true, n := true, z := true, pv := true, s := true } }).map (fun t => (t.flags, t.pc)) = some ({ c := true, h := false, n := false, z := true, pv := true, s := true }, 0x010001#24) := by decide

/-- Section 2.3 row 1. -/
theorem test_di :
    (stepOn [0xF3#8] { base with ief1 := true, ief2 := true }).map (fun t => (t.ief1, t.ief2, t.pc)) = some (false, false, 0x010001#24) := by decide

/-- Section 2.3 row 3. -/
theorem test_ei :
    (stepOn [0xFB#8] base).map (fun t => (t.ief1, t.ief2, t.pc)) = some (true, true, 0x010001#24) := by decide

/-- Section 2.3 row 5. -/
theorem test_im0 :
    (stepOn [0xED#8, 0x46#8] { base with im := .mode2 }).map (fun t => (t.im, t.pc)) = some (.mode0, 0x010002#24) := by decide

/-- Section 2.3 row 12. -/
theorem test_im1_at_the_top :
    (stepOn [0xED#8, 0x56#8] { base with pc := 0xFFFFFF#24 }).map (fun t => (t.im, t.pc)) = some (.mode1, 0x000001#24) := by decide

/-- Section 2.3 row 7. -/
theorem test_im2 :
    (stepOn [0xED#8, 0x5E#8] { base with im := .mode1 }).map (fun t => (t.im, t.pc)) = some (.mode2, 0x010002#24) := by decide

/-- Section 2.3 row 8. -/
theorem test_stmix :
    (stepOn [0xED#8, 0x7D#8] base).map (fun t => (t.madl, t.pc)) = some (true, 0x010002#24) := by decide

/-- Section 2.3 row 9. -/
theorem test_rsmix :
    (stepOn [0xED#8, 0x7E#8] { base with madl := true }).map (fun t => (t.madl, t.pc)) = some (false, 0x010002#24) := by decide

/-- Section 2.3 row 10. -/
theorem test_nop_clears_shadow :
    (stepOn [0x00#8] { base with eiShadow := true }).map (fun t => (t.eiShadow, t.pc)) = some (false, 0x010001#24) := by decide

/-- Section 2.3 row 11. -/
theorem test_nop_at_the_top :
    (stepOn [0x00#8] { base with pc := 0xFFFFFF#24 }).map (fun t => t.pc) = some 0x000000#24 := by decide

/-- Section 2.4 row 1. -/
theorem test_halt :
    (stepOn [0x76#8] base).map (fun t => (t.run, t.pc)) = some (.halted, 0x010001#24) := by decide

/-- Section 2.4 row 2. -/
theorem test_slp :
    (stepOn [0xED#8, 0x76#8] base).map (fun t => (t.run, t.pc)) = some (.sleeping, 0x010002#24) := by decide

/-- Section 2.5 row 1. -/
theorem test_call :
    (stepOn [0xCD#8, 0x56#8, 0x34#8, 0x12#8] base).map (fun t => (three t 0x0FFFFD#24, t.sp, t.pc)) = some ([0x04#8, 0x00#8, 0x01#8], 0x0FFFFD#24, 0x123456#24) := by decide

/-- Section 2.5 row 5. -/
theorem test_call_wraps_stack :
    (stepOn [0xCD#8, 0x56#8, 0x34#8, 0x12#8] { base with sp := 0x000001#24 }).map (fun t => (three t 0xFFFFFE#24, t.sp)) = some ([0x04#8, 0x00#8, 0x01#8], 0xFFFFFE#24) := by decide

/-- Section 2.5 row 2. -/
theorem test_call_z_taken :
    (stepOn [0xCC#8, 0x00#8, 0x10#8, 0xD0#8] { base with flags := { c := false, h := false, n := false, z := true, pv := false, s := false }, sp := 0xD1A000#24 }).map (fun t => (three t 0xD19FFD#24, t.sp, t.pc)) = some ([0x04#8, 0x00#8, 0x01#8], 0xD19FFD#24, 0xD01000#24) := by decide

/-- Section 2.5 row 3. -/
theorem test_call_z_not_taken :
    (stepOn [0xCC#8, 0x00#8, 0x10#8, 0xD0#8] base).map (fun t => (three t 0x0FFFFD#24, t.sp, t.pc)) = some ([0x00#8, 0x00#8, 0x00#8], 0x100000#24, 0x010004#24) := by decide

/-- Section 2.5 row 8. -/
theorem test_rst_28 :
    (stepOn [0xEF#8] { base with pc := 0x012345#24 }).map (fun t => (three t 0x0FFFFD#24, t.sp, t.pc)) = some ([0x46#8, 0x23#8, 0x01#8], 0x0FFFFD#24, 0x000028#24) := by decide

/-- Section 2.5 row 10. -/
theorem test_rst_38_at_the_top :
    (stepOn [0xFF#8] { base with pc := 0xFFFFFF#24 }).map (fun t => (three t 0x0FFFFD#24, t.pc)) = some ([0x00#8, 0x00#8, 0x00#8], 0x000038#24) := by decide

/-- Section 2.5 row 11. -/
theorem test_ret :
    (stepOn [0xC9#8] { base with pc := 0x123456#24, sp := 0x0FFFFD#24, mem := Memory.place [0x04#8, 0x00#8, 0x01#8] 0x0FFFFD#24 [] }).map (fun t => (t.pc, t.sp)) = some (0x010004#24, 0x100000#24) := by decide

/-- Section 2.5 row 12. -/
theorem test_ret_wraps_stack :
    (stepOn [0xC9#8] { base with pc := 0x123456#24, sp := 0xFFFFFE#24, mem := Memory.place [0x04#8, 0x00#8, 0x01#8] 0xFFFFFE#24 [] }).map (fun t => (t.pc, t.sp)) = some (0x010004#24, 0x000001#24) := by decide

/-- Section 2.5 row 13. -/
theorem test_ret_c_taken :
    (stepOn [0xD8#8] { base with flags := { c := true, h := false, n := false, z := false, pv := false, s := false }, pc := 0x020011#24, sp := 0x02FFFD#24, mem := Memory.place [0x04#8, 0x00#8, 0x02#8] 0x02FFFD#24 [] }).map (fun t => (t.pc, t.sp)) = some (0x020004#24, 0x030000#24) := by decide

/-- Section 2.5 row 14. -/
theorem test_ret_c_not_taken :
    (stepOn [0xD8#8] { base with pc := 0x020011#24, sp := 0x02FFFD#24 }).map (fun t => (t.pc, t.sp)) = some (0x020012#24, 0x02FFFD#24) := by decide

/-- Section 2.5 row 16. -/
theorem test_reti :
    (stepOn [0xED#8, 0x4D#8] { base with pc := 0x000039#24, sp := 0x04FFFD#24, mem := Memory.place [0x04#8, 0x00#8, 0x04#8] 0x04FFFD#24 [] }).map (fun t => (t.pc, t.sp, t.ief1, t.ief2)) = some (0x040004#24, 0x050000#24, false, false) := by decide

/-- Section 2.5 row 17. -/
theorem test_retn :
    (stepOn [0xED#8, 0x45#8] { base with ief2 := true, pc := 0x000070#24, sp := 0x04FFFD#24, mem := Memory.place [0x10#8, 0x00#8, 0x04#8] 0x04FFFD#24 [] }).map (fun t => (t.pc, t.sp, t.ief1, t.ief2)) = some (0x040010#24, 0x050000#24, true, true) := by decide

/-- Section 2.6 row 1. -/
theorem test_jp :
    (stepOn [0xC3#8, 0x38#8, 0x00#8, 0x00#8] { base with pc := 0x012345#24 }).map (fun t => t.pc) = some 0x000038#24 := by decide

/-- Section 2.6 row 3. -/
theorem test_jp_c_taken :
    (stepOn [0xDA#8, 0x00#8, 0x00#8, 0xD0#8] { base with flags := { c := true, h := false, n := false, z := false, pv := false, s := false } }).map (fun t => t.pc) = some 0xD00000#24 := by decide

/-- Section 2.6 row 5. -/
theorem test_jp_nz_ignores_hl :
    (stepOn [0xC2#8, 0x00#8, 0x00#8, 0xD0#8] { base with hl := 0xABCDEF#24 }).map (fun t => t.pc) = some 0xD00000#24 := by decide

/-- Section 2.6 row 6. -/
theorem test_jp_hl_reads_no_memory :
    (stepOn [0xE9#8] { base with hl := 0xD1A881#24, mem := Memory.place [0x11#8, 0x22#8, 0x33#8] 0xD1A881#24 [] }).map (fun t => (t.pc, t.hl)) = some (0xD1A881#24, 0xD1A881#24) := by decide

/-- Section 2.6 row 7. -/
theorem test_jp_ix :
    (stepOn [0xDD#8, 0xE9#8] { base with ix := 0xD13FD8#24, hl := 0x000001#24, iy := 0x000002#24 }).map (fun t => t.pc) = some 0xD13FD8#24 := by decide

/-- Section 2.6 row 8. -/
theorem test_jp_iy :
    (stepOn [0xFD#8, 0xE9#8] { base with iy := 0xD00080#24 }).map (fun t => t.pc) = some 0xD00080#24 := by decide

/-- Section 2.6 row 14. -/
theorem test_jr_back_wraps :
    (stepOn [0x18#8, 0x80#8] { base with pc := 0x000000#24 }).map (fun t => t.pc) = some 0xFFFF82#24 := by decide

/-- Section 2.6 row 15. -/
theorem test_jr_forward_wraps :
    (stepOn [0x18#8, 0x7F#8] { base with pc := 0xFFFFF0#24 }).map (fun t => t.pc) = some 0x000071#24 := by decide

/-- Section 2.6 row 17. -/
theorem test_jr_nz_taken :
    (stepOn [0x20#8, 0xFB#8] { base with pc := 0x010010#24 }).map (fun t => t.pc) = some 0x01000D#24 := by decide

/-- Section 2.6 row 20. -/
theorem test_jr_nc_not_taken :
    (stepOn [0x30#8, 0x10#8] { base with flags := { c := true, h := false, n := false, z := false, pv := false, s := false } }).map (fun t => t.pc) = some 0x010002#24 := by decide

/-- Section 2.6 row 23. -/
theorem test_djnz_last :
    (stepOn [0x10#8, 0xFD#8] { base with pc := 0x010001#24, b := 0x01#8 }).map (fun t => (t.b, t.pc)) = some (0x00#8, 0x010003#24) := by decide

/-- Section 2.6 row 24. -/
theorem test_djnz_from_zero :
    (stepOn [0x10#8, 0xFD#8] { base with pc := 0x010001#24, b := 0x00#8 }).map (fun t => (t.b, t.pc)) = some (0xFF#8, 0x010000#24) := by decide

/-! ### Events at a boundary: section 2.7, and section 2.4 for a suspended CPU -/

/-- The state of section 2.7, with one input to come. -/
def event (x : Input) : State :=
  { State.reset with pc := 0x040004#24, sp := 0x050000#24, ief1 := true, ief2 := true, inputs := [x] }

/-- A maskable request with the byte the device drives. -/
def request (device : Byte) : Input := { reset := false, nmi := false, int := true, device := device }

/-- A nonmaskable request. -/
def nmiRequest : Input := { reset := false, nmi := true, int := false, device := 0x00#8 }

/-- A reset request beside both others. -/
def resetRequest : Input := { reset := true, nmi := true, int := true, device := 0xC7#8 }

/-- Section 2.7 row 1. -/
theorem test_int_mode1 : (stepOn [] { event (request 0x00#8) with im := .mode1 }).map
    (fun t => (three t 0x04FFFD#24, t.sp, t.pc, t.ief1, t.ief2)) =
    some ([0x04#8, 0x00#8, 0x04#8], 0x04FFFD#24, 0x000038#24, false, false) := by decide

/-- Section 2.7 row 4: the pushed address is not advanced for the inserted opcode. -/
theorem test_int_mode0_rst : (stepOn [] (event (request 0xEF#8))).map (fun t => (three t 0x04FFFD#24, t.pc)) =
    some ([0x04#8, 0x00#8, 0x04#8], 0x000028#24) := by decide

/-- Section 2.7 row 5. -/
theorem test_int_mode0_call_refused : step (event (request 0xCD#8)) = .refused (.im0Instruction 0xCD#8) := by rfl

/-- Section 2.7 row 2: masked, so the instruction at `PC` (a NOP) executes. -/
theorem test_int_masked : (stepOn [0x00#8] { event (request 0xEF#8) with ief1 := false, ief2 := false }).map
    (fun t => (t.pc, t.sp)) = some (0x040005#24, 0x050000#24) := by decide

/-- Section 2.7 row 3. -/
theorem test_int_shadowed : (stepOn [0x00#8] { event (request 0xEF#8) with eiShadow := true }).map
    (fun t => (t.pc, t.eiShadow)) = some (0x040005#24, false) := by decide

/-- Section 2.7 row 8. -/
theorem test_nmi : (stepOn [] (event nmiRequest)).map (fun t => (three t 0x04FFFD#24, t.ief1, t.run)) =
    some ([0x04#8, 0x00#8, 0x04#8], false, .running) := by decide

/-- Section 2.7 row 13. -/
theorem test_nmi_madl_refused : step { event nmiRequest with madl := true } = .refused .mixedModeAcceptance := by rfl

/-- Section 2.4 row 3: out of HALT. -/
theorem test_halt_woken : (stepOn [] { event (request 0x00#8) with
      im := .mode1, run := .halted, pc := 0x001001#24, sp := 0x002000#24 }).map
    (fun t => (three t 0x001FFD#24, t.run, t.pc)) = some ([0x01#8, 0x10#8, 0x00#8], .running, 0x000038#24) := by decide

/-- Section 2.4 row 4: a masked request does not wake. -/
theorem test_halt_not_woken : (stepOn [] { event (request 0x00#8) with run := .halted, ief1 := false }).map
    (fun t => (t.run, t.pc)) = some (.halted, 0x040004#24) := by decide

/-- Section 2.4 row 8 and section 2.7 row 11: reset over everything. -/
theorem test_reset_event : (stepOn [] { event resetRequest with run := .halted, eiShadow := true }).map
    (fun t => (t.run, t.eiShadow)) = some (.running, false) := by decide

/-- A push into an address the platform does not admit is stuck (R60). -/
theorem test_push_not_admitted : exec (.call 0x123456#24) { base with
      unbacked := [{ kind := .write, base := 0x0FFFFE, size := 1 }] } = .fault (.notAdmitted .write 0x0FFFFE#24) := by rfl

/-- The first instruction after reset, placed by the table word of `im 1`. -/
theorem test_fetch_word_after_reset : (match step (State.reset.withFetchWord 16 0xED56) with
    | .next t => some (t.im, t.pc) | .fault _ => none | .refused _ => none) = some (.mode1, 0x000002#24) := by decide

/-! ### Witnesses: states and operands that meet the hypotheses of the statements -/

/-- A running CPU with no event, a code byte at `PC` and the whole space admitted. -/
def coded (bytes : List Byte) : State := { base with mem := Memory.place bytes 0x010000#24 [] }

theorem witness_DecodeOfEncode : (Instr.jrCc .c 0xFF#8).wellFormed = true := by decide

theorem witness_EncodeOfDecode : decode [0xFF#8] = .ok (.rst 0b111#3, []) := by rfl

theorem witness_UnlistedBytesRefused :
    0x01#8 ∉ firstBytes ∧ 0x44#8 ∉ secondBytesEd ∧ 0x4E#8 ∉ secondBytesEd ∧ refusal [0x01#8] = some (.firstByte 0x01#8) ∧
    refusal [0xED#8, 0x44#8] = some (.afterEd 0x44#8) ∧ refusal [0xED#8, 0x4E#8] = some .imField01 ∧
    refusal [0xFD#8, 0xE8#8] = some (.afterIndex 0xFD#8 0xE8#8) := by decide

theorem witness_OutsideTableRefusedByStep :
    (coded [0xED#8, 0x4E#8]).noEvent ∧ (coded [0xED#8, 0x4E#8]).run = .running ∧
    fetchInstr (coded [0xED#8, 0x4E#8]).takeInput =
      .ok ([0xED#8, 0x4E#8], (coded [0xED#8, 0x4E#8]).takeInput.setPc 0x010002#24) ∧
    ∀ i : Instr, i.wellFormed = true → [0xED#8, 0x4E#8] ≠ encode i := by
  refine ⟨by decide, by decide, rfl, ?_⟩
  intro i _ h
  cases i <;> first | exact absurd h (by decide) | (simp [encode, imm24Bytes] at h)
  rename_i cc _ _
  cases cc <;> simp [Cond.code2, Cond.code3] at h

theorem witness_FetchReadsInOrder :
    ∀ k, k < 2 → (coded [0x18#8, 0x05#8]).admits .fetch ((coded [0x18#8, 0x05#8]).pc + BitVec.ofNat 24 k) = true := by
  decide

theorem witness_StepRunsDecoded :
    (coded [0x18#8, 0x05#8]).noEvent ∧ (coded [0x18#8, 0x05#8]).run = .running ∧
    fetchInstr (coded [0x18#8, 0x05#8]).takeInput =
      .ok ([0x18#8, 0x05#8], (coded [0x18#8, 0x05#8]).takeInput.setPc 0x010002#24) ∧
    decode [0x18#8, 0x05#8] = .ok (.jr 0x05#8, []) := ⟨by decide, rfl, rfl, rfl⟩

theorem witness_StepRunsEncoded :
    (Instr.jr 0x05#8).wellFormed = true ∧ (coded [0x18#8, 0x05#8]).noEvent ∧ (coded [0x18#8, 0x05#8]).run = .running ∧
    (coded [0x18#8, 0x05#8]).holdsCode (encode (.jr 0x05#8)) (coded [0x18#8, 0x05#8]).pc = true := by decide

/-- Each of the four bytes of a CALL, the first and the last among them, and the second byte after a prefix. -/
theorem witness_UnadmittedFetchStops :
    (∀ k, k < 4 →
      let s := { coded [0xCD#8, 0x56#8, 0x34#8, 0x12#8] with unbacked := [{ kind := .fetch, base := 0x010000 + k, size := 1 }] }
      s.noEvent ∧ s.run = .running ∧ k < lengthOfFirst (s.mem.read s.pc) ∧
        (∀ j, j < k → s.admits .fetch (s.pc + BitVec.ofNat 24 j) = true) ∧
        s.admits .fetch (s.pc + BitVec.ofNat 24 k) = false) ∧
    (let s := { coded [0xED#8, 0x76#8] with unbacked := [{ kind := .fetch, base := 0x010001, size := 1 }] }
     1 < lengthOfFirst (s.mem.read s.pc) ∧ s.admits .fetch s.pc = true ∧ s.admits .fetch (s.pc + 1#24) = false) ∧
    (Instr.call 0x123456#24).wellFormed = true ∧ encode (.call 0x123456#24) = [0xCD#8, 0x56#8, 0x34#8, 0x12#8] := by decide

theorem witness_NopResult :
    (coded [0x00#8]).noEvent ∧ (coded [0x00#8]).run = .running ∧
    (coded [0x00#8]).holdsCode [0x00#8] (coded [0x00#8]).pc = true := by decide

theorem witness_DjnzResult :
    ({ base with b := 1#8 }).b = 1#8 ∧ ({ base with b := 0#8 }).b ≠ 1#8 ∧ ({ base with b := 0#8 }).b = 0#8 := by decide

theorem witness_JrResult : (Instr.jrCc .z 0x10#8).wellFormed = true := by decide

/-- `pushReady`: CALL, RST; and with a condition that holds, and one that does not, CALL cc. -/
theorem witness_CallResult : base.pushReady ∧ condHolds .nz base.flags = true ∧ condHolds .z base.flags = false := by decide

/-- `popReady`: RET, RETI, RETN; and with a condition that holds, and one that does not, RET cc. -/
theorem witness_RetResult :
    base.popReady ∧ condHolds .p base.flags = true ∧ condHolds .m base.flags = false ∧ base.eiShadow = false := by decide

/-- Each of the three writes of a push can be the first not admitted. -/
theorem witness_PushStops :
    let no := fun a => { base with unbacked := [{ kind := .write, base := a, size := 1 }] }
    (no 0x0FFFFF).admits .write (base.sp - 1#24) = false ∧
    ((no 0x0FFFFE).admits .write (base.sp - 1#24) = true ∧ (no 0x0FFFFE).admits .write (base.sp - 2#24) = false) ∧
    ((no 0x0FFFFD).admits .write (base.sp - 1#24) = true ∧ (no 0x0FFFFD).admits .write (base.sp - 2#24) = true ∧
      (no 0x0FFFFD).admits .write (base.sp - 3#24) = false) := by decide

/-- The state at whose boundary something is presented, with one byte that cannot be written. -/
def unwritable (x : Input) (a : Nat) : State := { event x with unbacked := [{ kind := .write, base := a, size := 1 }] }

/-- Every kind of acceptance that PushStops covers. -/
theorem witness_PushStops_accepted (a : Nat) :
    (unwritable nmiRequest a).entersAt Config.nmiVector ∧
    (unwritable (request 0xFF#8) a).entersAt 0x000038#24 ∧
    { unwritable (request 0x00#8) a with im := .mode1 }.entersAt 0x000038#24 ∧
    (∃ target, { unwritable (request 0x00#8) a with im := .mode2 }.entersAt target) ∧
    (unwritable nmiRequest a).madl = false ∧ (unwritable (request 0xFF#8) a).madl = false :=
  ⟨.inl ⟨⟨rfl, rfl⟩, rfl⟩, .inr ⟨⟨rfl, rfl, rfl, rfl, rfl⟩, .inl ⟨rfl, 7#3, rfl, rfl⟩⟩,
    .inr ⟨⟨rfl, rfl, rfl, rfl, rfl⟩, .inr (.inl ⟨rfl, rfl⟩)⟩,
    ⟨_, .inr ⟨⟨rfl, rfl, rfl, rfl, rfl⟩, .inr (.inr ⟨rfl, fun _ _ => rfl, rfl⟩)⟩⟩, rfl, rfl⟩

/-- Each of the three writes of an acceptance can be the first not admitted. -/
theorem witness_PushStops_entry :
    let no := unwritable nmiRequest
    (no 0x04FFFF).admits .write ((no 0x04FFFF).sp - 1#24) = false ∧
    ((no 0x04FFFE).admits .write ((no 0x04FFFE).sp - 1#24) = true ∧
      (no 0x04FFFE).admits .write ((no 0x04FFFE).sp - 2#24) = false) ∧
    ((no 0x04FFFD).admits .write ((no 0x04FFFD).sp - 1#24) = true ∧
      (no 0x04FFFD).admits .write ((no 0x04FFFD).sp - 2#24) = true ∧
      (no 0x04FFFD).admits .write ((no 0x04FFFD).sp - 3#24) = false) := by decide

/-- Each of the three reads of a pop can be the first not admitted. -/
theorem witness_PopStops :
    let no := fun a => { base with unbacked := [{ kind := .read, base := a, size := 1 }] }
    (no 0x100000).admits .read base.sp = false ∧
    ((no 0x100001).admits .read base.sp = true ∧ (no 0x100001).admits .read (base.sp + 1#24) = false) ∧
    ((no 0x100002).admits .read base.sp = true ∧ (no 0x100002).admits .read (base.sp + 1#24) = true ∧
      (no 0x100002).admits .read (base.sp + 2#24) = false) := by decide

/-- The hypothesis of NoSynchronousException's second clause: a stop of a RET, and of a CALL cc whose condition holds, each at
the last of its three addresses. -/
theorem witness_NoSynchronousException :
    exec .ret { base with unbacked := [{ kind := .read, base := 0x100002, size := 1 }] } =
      .fault (.notAdmitted .read 0x100002#24) ∧
    exec (.callCc .nz 0x123456#24) { base with unbacked := [{ kind := .write, base := 0x0FFFFD, size := 1 }] } =
      .fault (.notAdmitted .write 0x0FFFFD#24) := ⟨rfl, rfl⟩

/-- The hypothesis of the frames: a CALL that goes on, and a NOP, which is none of the named writers. -/
theorem witness_frames : (∃ t, exec (.call 0x123456#24) base = .next t) ∧ ∃ t, exec .nop base = .next t :=
  ⟨⟨_, rfl⟩, ⟨_, rfl⟩⟩

theorem witness_MadlIrrelevantToInstructions : Instr.ret ≠ .stmix ∧ Instr.ret ≠ .rsmix := by decide

theorem witness_CallThenReturn :
    base.pushReady ∧ base.admits .read (base.sp - 1#24) = true ∧ base.admits .read (base.sp - 2#24) = true ∧
    base.admits .read (base.sp - 3#24) = true := by decide

/-- MaskableMode1, and RetiReturns in mode 1. -/
theorem witness_MaskableMode1 :
    let s := { event (request 0x00#8) with im := .mode1 }
    s.intAccepted ∧ s.im = .mode1 ∧ s.madl = false ∧ s.pushReady ∧ s.admits .read (s.sp - 1#24) = true ∧
    s.admits .read (s.sp - 2#24) = true ∧ s.admits .read (s.sp - 3#24) = true := by decide

/-- Both ends of the restart field. -/
theorem witness_MaskableMode0 :
    (let s := event (request 0xC7#8)
     s.intAccepted ∧ s.im = .mode0 ∧ s.madl = false ∧ s.pushReady ∧
       s.input.device = BitVec.ofNat 8 (0xC7 + 8 * (0#3).toNat)) ∧
    (let s := event (request 0xFF#8)
     s.intAccepted ∧ s.im = .mode0 ∧ s.madl = false ∧ s.pushReady ∧
       s.input.device = BitVec.ofNat 8 (0xC7 + 8 * (7#3).toNat)) := by decide

theorem witness_MaskableMode0Refused :
    let s := event (request 0xCD#8)
    s.intAccepted ∧ s.im = .mode0 ∧ ∀ t : BitVec 3, s.input.device ≠ BitVec.ofNat 8 (0xC7 + 8 * t.toNat) := by decide

theorem witness_MaskableMode2 :
    let s := { event (request 0x4C#8) with im := .mode2, i := 0x00D1#16 }
    s.intAccepted ∧ s.im = .mode2 ∧ s.madl = false ∧ s.tableReady ∧ s.pushReady :=
  ⟨by decide, rfl, rfl, fun _ _ => rfl, by decide⟩

/-- MaskableMode2ReadStops: with the whole space readable, and with nothing readable (where the step stops if it reads at all). -/
theorem witness_MaskableMode2ReadStops :
    let s := { event (request 0x4C#8) with im := .mode2, i := 0x00D1#16 }
    let t := { s with unbacked := [{ kind := .read, base := 0, size := 0x1000000 }] }
    s.intAccepted ∧ s.im = .mode2 ∧ s.madl = false ∧ t.intAccepted ∧ t.im = .mode2 ∧ t.madl = false ∧
    t.admits .read 0x00D14C#24 = false := by decide

/-- RetiReturns: a target in each mode, both ends of the restart field in mode 0. -/
theorem witness_RetiReturns :
    (event (request 0xC7#8)).intTarget 0x000000#24 ∧ (event (request 0xFF#8)).intTarget 0x000038#24 ∧
    { event (request 0x00#8) with im := .mode1 }.intTarget 0x000038#24 ∧
    ∃ target, { event (request 0x4C#8) with im := .mode2, i := 0x00D1#16 }.intTarget target :=
  ⟨.inl ⟨rfl, 0#3, rfl, rfl⟩, .inl ⟨rfl, 7#3, rfl, rfl⟩, .inr (.inl ⟨rfl, rfl⟩), _,
    .inr (.inr ⟨rfl, fun _ _ => rfl, rfl⟩)⟩

/-- NmiAccepted and RetnRestoresEnable. -/
theorem witness_NmiAccepted :
    let s := event nmiRequest
    s.nmiAccepted ∧ s.madl = false ∧ s.pushReady ∧ s.ief1 = s.ief2 ∧ s.admits .read (s.sp - 1#24) = true ∧
    s.admits .read (s.sp - 2#24) = true ∧ s.admits .read (s.sp - 3#24) = true := by decide

/-- An NMI; and a maskable interrupt in mode 1, in mode 2, and in mode 0 with an inserted RST. -/
theorem witness_MixedModeAcceptanceRefused :
    (let s := { event nmiRequest with madl := true }
     s.madl = true ∧ s.nmiAccepted) ∧
    (let s := { event (request 0x00#8) with madl := true, im := .mode1 }
     s.madl = true ∧ s.intAccepted ∧ s.im ≠ .mode0) ∧
    (let s := { event (request 0x00#8) with madl := true, im := .mode2 }
     s.madl = true ∧ s.intAccepted ∧ s.im ≠ .mode0) ∧
    (let s := { event (request 0xEF#8) with madl := true }
     s.madl = true ∧ s.intAccepted ∧ s.input.device = BitVec.ofNat 8 (0xC7 + 8 * (5#3).toNat)) := by decide

/-- Masked by IEF1, and shadowed. -/
theorem witness_MaskedRequestIgnored :
    (let s := { event (request 0xEF#8) with ief1 := false }
     s.inputs = request 0xEF#8 :: [] ∧ (s.ief1 = false ∨ s.eiShadow = true)) ∧
    (let s := { event (request 0xEF#8) with eiShadow := true }
     s.inputs = request 0xEF#8 :: [] ∧ (s.ief1 = false ∨ s.eiShadow = true)) ∧
    (request 0xEF#8).reset = false ∧ (request 0xEF#8).nmi = false := by decide

/-- A reset beside the others against a reset alone, and an NMI beside INT against an NMI alone. -/
theorem witness_EventPriority :
    (let y : Input := { reset := true, nmi := false, int := false, device := 0x00#8 }
     resetRequest.reset = y.reset ∧ resetRequest.reset = true ∧ resetRequest ≠ y) ∧
    (let x : Input := { reset := false, nmi := true, int := true, device := 0xEF#8 }
     x.reset = nmiRequest.reset ∧ x.nmi = true ∧ nmiRequest.nmi = true ∧ x ≠ nmiRequest) := by decide

theorem witness_ResetEvent : (event resetRequest).input.reset = true := by decide

/-- HALTED and SLEEPING, with an input that nothing accepts, and with none to come. -/
theorem witness_SuspendedStays :
    (let s := { event (request 0x00#8) with run := .halted, ief1 := false }
     s.run ≠ .running ∧ s.noEvent) ∧
    (let s := { base with run := .sleeping }
     s.run ≠ .running ∧ s.inputs = [] ∧ s.noEvent) := by decide

/-- A HALT before an NMI, and an SLP before a maskable request, with further inputs to come. -/
theorem witness_InterruptEndsSuspension :
    (let s := { coded [0x76#8] with inputs := [Input.quiet, nmiRequest, resetRequest] }
     s.noEvent ∧ s.run = .running ∧ s.holdsCode (encode .halt) s.pc = true ∧ s.inputs.tail = nmiRequest :: [resetRequest] ∧
     nmiRequest.reset = false ∧ nmiRequest.nmi = true ∧ s.madl = false ∧ s.pushReady) ∧
    (let s := { coded [0xED#8, 0x76#8] with inputs := [Input.quiet, request 0xEF#8], ief1 := true }
     s.noEvent ∧ s.run = .running ∧ s.holdsCode (encode .slp) s.pc = true ∧ s.inputs.tail = request 0xEF#8 :: [] ∧
     (request 0xEF#8).reset = false ∧ (request 0xEF#8).nmi = false ∧ (request 0xEF#8).int = true ∧ s.ief1 = true ∧
     s.madl = false ∧ s.pushReady) := by decide

/-- The target of that maskable request once the SLP is done: the restart that the device inserts. -/
theorem witness_InterruptEndsSuspension_target :
    { coded [0xED#8, 0x76#8] with
      pc := 0x010002#24, run := .sleeping, ief1 := true, inputs := [request 0xEF#8] }.intTarget 0x000028#24 :=
  .inl ⟨rfl, 5#3, rfl, rfl⟩

/-- The invariants hold somewhere other than after reset, and a step goes on from there: a CALL with interrupts enabled. -/
theorem witness_invariants :
    let s := { coded [0xCD#8, 0x56#8, 0x34#8, 0x12#8] with ief1 := true, ief2 := true }
    s.mem.wf ∧ s.iefOrdered ∧ s.shadowOff ∧ ∃ t, step s = .next t :=
  ⟨by decide, by decide, fun _ => rfl, ⟨_, rfl⟩⟩

/-- ShadowOnlyAfterEi: a suspended CPU with the bit set keeps it. -/
theorem witness_ShadowOnlyAfterEi :
    let s := { base with run := .halted, eiShadow := true }
    step s = .next s ∧ s.eiShadow = true := ⟨rfl, rfl⟩

/-- StepKeepsUnwrittenState: a step that is no reset. -/
theorem witness_StepKeepsUnwrittenState :
    (coded [0x00#8]).input.reset = false ∧ ∃ t, step (coded [0x00#8]) = .next t := ⟨rfl, ⟨_, rfl⟩⟩

/-- StepGoesOn: a running CPU with code, and an accepted mode 0 interrupt that brings an RST. -/
theorem witness_StepGoesOn :
    (let s := coded [0xC9#8]
     s.unbacked = [] ∧ s.madl = false ∧ s.noEvent ∧ s.run = .running ∧
       (Instr.ret).wellFormed = true ∧ s.holdsCode (encode .ret) s.pc = true) ∧
    (let s := event (request 0xEF#8)
     s.unbacked = [] ∧ s.madl = false ∧ s.intAccepted ∧ s.im = .mode0 ∧
       s.input.device = BitVec.ofNat 8 (0xC7 + 8 * (5#3).toNat)) := by decide

end Sys2Proof.Tests
end

section
/-! What an instruction and a step can leave: one inversion lemma for `exec` and one for `step`, over the shapes of the next
state, and the frames read off them (10_state.md R20 to R37). -/

namespace Sys2Proof.Machine

variable {s t : State} {i : Instr}

/-! ### Instructions -/

/-- What an instruction does with the stack (R55, R56). -/
inductive StackUse where
  | push | pop | untouched

/-- The use of the stack under the flags: a conditional call or return whose condition fails makes none (R58). -/
def stackUse (f : Flags) : Instr → StackUse
  | .call _ | .rst _ => .push
  | .callCc cc _ => if condHolds cc f = true then .push else .untouched
  | .ret | .reti | .retn => .pop
  | .retCc cc => if condHolds cc f = true then .pop else .untouched
  | .djnz _ | .jr _ | .jrCc _ _ | .jp _ | .jpCc _ _ | .jpHl | .jpIx | .jpIy => .untouched
  | .nop | .ccf | .scf | .di | .ei | .im0 | .im1 | .im2 | .stmix | .rsmix | .halt | .slp => .untouched

/-- Where a use of the stack leaves the stack pointer (R55, R56). -/
def StackUse.spAfter (sp : Addr) : StackUse → Addr
  | .push => sp - 3#24
  | .pop => sp + 3#24
  | .untouched => sp

/-- The shapes of the state that an instruction leaves, seen from the state with `PC` past its bytes. `moved` is what an
instruction leaves that writes `PC` alone or nothing. -/
inductive ExecResult (s : State) : Instr → State → Prop
  | called {i : Instr} (h : stackUse s.flags i = .push) (target : Addr) :
      ExecResult s i ((s.afterPush s.pc).setPc target)
  | returned {i : Instr} (h : stackUse s.flags i = .pop) :
      ExecResult s i ((s.setSp (s.sp + 3#24)).setPc s.stackTop)
  | returnedFromNmi : ExecResult s .retn (((s.setSp (s.sp + 3#24)).setPc s.stackTop).setIef1 s.ief2)
  | moved {i : Instr} (h : stackUse s.flags i = .untouched) (target : Addr) : ExecResult s i (s.setPc target)
  | counted (d : Byte) (target : Addr) : ExecResult s (.djnz d) ((s.setB (s.b - 1#8)).setPc target)
  | complementedCarry : ExecResult s .ccf (s.setFlags (complementCarry s.flags))
  | carrySet : ExecResult s .scf (s.setFlags (setCarry s.flags))
  | disabled : ExecResult s .di ((s.setIef1 false).setIef2 false)
  | enabled : ExecResult s .ei (((s.setIef1 true).setIef2 true).setEiShadow Config.eiDelay)
  | modeSet {i : Instr} (h : i = .im0 ∨ i = .im1 ∨ i = .im2) (m : IntMode) : ExecResult s i (s.setIm m)
  | mixSet {i : Instr} (h : i = .stmix ∨ i = .rsmix) (m : Bool) : ExecResult s i (s.setMadl m)
  | suspended {i : Instr} (h : i = .halt ∨ i = .slp) (r : RunState) : ExecResult s i (s.setRun r)

/-- An instruction that goes on leaves one of the shapes. -/
theorem exec_next (h : exec i s = .next t) : ExecResult s i t := by
  cases i with
  | call a | rst r => obtain ⟨-, rfl⟩ := callTo_next h; exact .called rfl _
  | callCc cc a =>
    simp only [exec, execCallCc] at h
    split at h
    next hc => obtain ⟨-, rfl⟩ := callTo_next h; exact .called (by simp [stackUse, hc]) a
    next hc => cases h; exact .moved (by simp [stackUse, hc]) s.pc
  | ret | reti => obtain ⟨-, rfl⟩ := returnTop_next h; exact .returned rfl
  | retn => obtain ⟨-, rfl⟩ := returnFromNmi_next h; exact .returnedFromNmi
  | retCc cc =>
    simp only [exec, execRetCc] at h
    split at h
    next hc => obtain ⟨-, rfl⟩ := returnTop_next h; exact .returned (by simp [stackUse, hc])
    next hc => cases h; exact .moved (by simp [stackUse, hc]) s.pc
  | jpCc cc a | jrCc cc d =>
    simp only [exec, execJpCc, execJrCc] at h
    split at h <;> cases h
    · exact .moved rfl _
    · exact .moved rfl s.pc
  | djnz d =>
    simp only [exec, execDjnz] at h
    split at h <;> cases h
    · exact .counted d s.pc
    · exact .counted d _
  | nop => cases h; exact .moved rfl s.pc
  | jp a | jr d | jpHl | jpIx | jpIy => cases h; exact .moved rfl _
  | ccf => cases h; exact .complementedCarry
  | scf => cases h; exact .carrySet
  | di => cases h; exact .disabled
  | ei => cases h; exact .enabled
  | im0 | im1 | im2 => cases h; exact .modeSet (by simp) _
  | stmix | rsmix => cases h; exact .mixSet (by simp) _
  | halt | slp => cases h; exact .suspended (by simp) _

/-- What nothing but a reset writes: four registers, three flags, and the two fields of the model's own (R37, logs 5 and 6). -/
structure State.SameUnwritten (s t : State) : Prop where
  hl : t.hl = s.hl
  ix : t.ix = s.ix
  iy : t.iy = s.iy
  i : t.i = s.i
  unbacked : t.unbacked = s.unbacked
  inputs : t.inputs = s.inputs
  flagZ : t.flags.z = s.flags.z
  flagPv : t.flags.pv = s.flags.pv
  flagS : t.flags.s = s.flags.s

namespace ExecResult

theorem unwritten (h : ExecResult s i t) : s.SameUnwritten t := by
  cases h <;> exact ⟨rfl, rfl, rfl, rfl, rfl, rfl, rfl, rfl, rfl⟩

theorem b (h : ExecResult s i t) (hi : ∀ d, i ≠ .djnz d) : t.b = s.b := by
  cases h with
  | counted d => exact absurd rfl (hi d)
  | _ => rfl

theorem flags (h : ExecResult s i t) (hc : i ≠ .ccf) (hs : i ≠ .scf) : t.flags = s.flags := by
  cases h with
  | complementedCarry => exact absurd rfl hc
  | carrySet => exact absurd rfl hs
  | _ => rfl

theorem ief1 (h : ExecResult s i t) (hd : i ≠ .di) (he : i ≠ .ei) (hn : i ≠ .retn) : t.ief1 = s.ief1 := by
  cases h with
  | disabled => exact absurd rfl hd
  | enabled => exact absurd rfl he
  | returnedFromNmi => exact absurd rfl hn
  | _ => rfl

theorem ief2 (h : ExecResult s i t) (hd : i ≠ .di) (he : i ≠ .ei) : t.ief2 = s.ief2 := by
  cases h with
  | disabled => exact absurd rfl hd
  | enabled => exact absurd rfl he
  | _ => rfl

theorem im (h : ExecResult s i t) (h0 : i ≠ .im0) (h1 : i ≠ .im1) (h2 : i ≠ .im2) : t.im = s.im := by
  cases h with
  | modeSet h => simp_all
  | _ => rfl

theorem madl (h : ExecResult s i t) (hs : i ≠ .stmix) (hr : i ≠ .rsmix) : t.madl = s.madl := by
  cases h with
  | mixSet h => simp_all
  | _ => rfl

theorem run (h : ExecResult s i t) (hh : i ≠ .halt) (hs : i ≠ .slp) : t.run = s.run := by
  cases h with
  | suspended h => simp_all
  | _ => rfl

theorem eiShadow (h : ExecResult s i t) (hi : i ≠ .ei) : t.eiShadow = s.eiShadow := by
  cases h with
  | enabled => exact absurd rfl hi
  | _ => rfl

theorem sp (h : ExecResult s i t) : t.sp = (stackUse s.flags i).spAfter s.sp := by
  cases h with
  | called h | returned h | moved h => rw [h]; rfl
  | modeSet h => rcases h with rfl | rfl | rfl <;> rfl
  | mixSet h | suspended h => rcases h with rfl | rfl <;> rfl
  | _ => rfl

/-- An instruction that does not push leaves the memory itself (R37). -/
theorem mem (h : ExecResult s i t) (hi : stackUse s.flags i ≠ .push) : t.mem = s.mem := by
  cases h with
  | called h => exact absurd h hi
  | _ => rfl

/-- Every instruction leaves the bytes outside the three below `SP` (R55, R58). -/
theorem read_mem (h : ExecResult s i t) {a : Addr} (h1 : a ≠ s.sp - 1#24) (h2 : a ≠ s.sp - 2#24) (h3 : a ≠ s.sp - 3#24) :
    t.mem.read a = s.mem.read a := by
  cases h with
  | called _ target => exact (s.afterPush_called target).pushed.others a h1 h2 h3
  | _ => rfl

/-- EI sets both interrupt flags, DI resets both, RETN copies `IEF2`, and the others write neither (R28). -/
theorem iefOrdered (h : ExecResult s i t) (hs : s.iefOrdered) : t.iefOrdered := by
  cases h with
  | disabled | enabled | returnedFromNmi => exact id
  | _ => exact hs

end ExecResult

theorem stackUse_untouched {f : Flags} (hcall : ∀ a, i ≠ .call a) (hcallCc : ∀ cc a, i ≠ .callCc cc a)
    (hrst : ∀ r, i ≠ .rst r) (hret : i ≠ .ret) (hretCc : ∀ cc, i ≠ .retCc cc)
    (hreti : i ≠ .reti) (hretn : i ≠ .retn) : stackUse f i = .untouched := by
  cases i <;> simp_all [stackUse]

theorem stackUse_push {f : Flags} (h : stackUse f i = .push) :
    (∃ a, i = .call a) ∨ (∃ cc a, i = .callCc cc a ∧ condHolds cc f = true) ∨ ∃ r, i = .rst r := by
  cases i with
  | retCc cc => simp only [stackUse] at h; split at h <;> cases h
  | _ => simp_all [stackUse]

/-- Settles O31, from the write set of each field over the shapes of `exec`'s result. -/
theorem registerFrame : Obligations.RegisterFrame := by
  intro i s t h
  have hx := exec_next h
  obtain ⟨hl, ix, iy, hi, unbacked, inputs, z, pv, hs⟩ := hx.unwritten
  refine ⟨hl, ix, iy, hi, unbacked, inputs, z, pv, hs, hx.b, hx.flags, hx.ief1, hx.ief2, hx.im, hx.madl, hx.run,
    hx.eiShadow, ?_⟩
  intro hcall hcallCc hrst hret hretCc hreti hretn
  rw [hx.sp, stackUse_untouched hcall hcallCc hrst hret hretCc hreti hretn]
  rfl

/-- Settles O32: only the shape of a call writes memory, and it is a push. -/
theorem memoryFrame : Obligations.MemoryFrame := by
  intro i s t h
  have hx := exec_next h
  refine ⟨fun a => hx.read_mem, fun hcall hcallCc hrst a => ?_⟩
  have hu : stackUse s.flags i ≠ .push := by
    intro hp
    rcases stackUse_push hp with ⟨x, hi⟩ | ⟨cc, x, hi, hc⟩ | ⟨r, hi⟩
    · exact hcall x hi
    · exact absurd hc (by simp [hcallCc cc x hi])
    · exact hrst r hi
  rw [hx.mem hu]

/-- Settles O33, from the use each instruction makes of the stack. -/
theorem stackPointerFrame : Obligations.StackPointerFrame := by
  intro i s t h
  rw [(exec_next h).sp]
  clear h
  cases i with
  | callCc cc a | retCc cc => simp only [stackUse]; split <;> rfl
  | _ => rfl

/-! ### The mixed memory mode flag -/

/-- An outcome with `MADL` set in its next state. -/
def withMadl (m : Bool) : Outcome → Outcome
  | .next t => .next (t.setMadl m)
  | .fault f => .fault f
  | .refused r => .refused r

theorem push24_setMadl (v : Addr) (s : State) (m : Bool) :
    push24 v (s.setMadl m) = (push24 v s).map (·.setMadl m) := by
  simp only [push24_eq, apply_ite (Except.map _)]
  rfl

theorem pop24_setMadl (s : State) (m : Bool) :
    pop24 (s.setMadl m) = (pop24 s).map (fun p => (p.1, p.2.setMadl m)) := by
  simp only [pop24_eq, apply_ite (Except.map _)]
  rfl

theorem callTo_setMadl (target : Addr) (s : State) (m : Bool) :
    callTo target (s.setMadl m) = withMadl m (callTo target s) := by
  rw [callTo, push24_setMadl, callTo, State.setMadl_pc]
  cases push24 s.pc s <;> rfl

theorem returnTop_setMadl (s : State) (m : Bool) : returnTop (s.setMadl m) = withMadl m (returnTop s) := by
  rw [returnTop, pop24_setMadl, returnTop]
  cases pop24 s <;> rfl

theorem returnFromNmi_setMadl (s : State) (m : Bool) : returnFromNmi (s.setMadl m) = withMadl m (returnFromNmi s) := by
  rw [returnFromNmi, pop24_setMadl, returnFromNmi]
  cases pop24 s <;> rfl

/-- An instruction that does not write `MADL` commutes with setting it (R30). -/
theorem exec_setMadl (hs : i ≠ .stmix) (hr : i ≠ .rsmix) (s : State) (m : Bool) :
    exec i (s.setMadl m) = withMadl m (exec i s) := by
  cases i with
  | stmix => exact absurd rfl hs
  | rsmix => exact absurd rfl hr
  | call a | rst r => exact callTo_setMadl _ s m
  | ret | reti => exact returnTop_setMadl s m
  | retn => exact returnFromNmi_setMadl s m
  | callCc cc a | retCc cc =>
    simp only [exec, execCallCc, execRetCc, callTo_setMadl, returnTop_setMadl, apply_ite (withMadl m)]
    rfl
  | jpCc cc a | jrCc cc d | djnz d =>
    simp only [exec, execJpCc, execJrCc, execDjnz, apply_ite (withMadl m)]
    rfl
  | _ => rfl

/-- Settles O34: `exec` commutes with writing `MADL`. -/
theorem madlIrrelevantToInstructions : Obligations.MadlIrrelevantToInstructions :=
  fun _ s m hs hr => exec_setMadl hs hr s m

/-! ### Steps -/

/-- The shapes of the state that a step leaves (R152): a reset, an interrupt entry, an instruction with the hidden bit set to
`EI_DELAY` by EI and cleared by every other (R33), or a suspended CPU that waits. -/
inductive StepResult (s : State) : State → Prop
  | reset (h : s.input.reset = true) : StepResult s (takeReset s.takeInput)
  | entered (ief2 : Bool) (target : Addr) :
      StepResult s (((s.takeInput.setIef1 false).setIef2 ief2).afterEntry target)
  | ran (hq : s.noEvent) (hr : s.run = .running) {bytes rest : List Byte} {i : Instr} {pc : Addr} {u : State}
      (hf : fetchInstr s.takeInput = .ok (bytes, s.takeInput.setPc pc)) (hd : decode bytes = .ok (i, rest))
      (hx : ExecResult (s.takeInput.setPc pc) i u) : StepResult s (u.setEiShadow (decide (i = .ei) && Config.eiDelay))
  | waited (hq : s.noEvent) (hr : s.run ≠ .running) : StepResult s s.takeInput

/-- After an instruction the hidden bit is `EI_DELAY` for EI and 0 for every other (R33, R152). -/
theorem settle_exec_next (h : settle i (exec i s) = .next t) :
    ∃ u, ExecResult s i u ∧ t = u.setEiShadow (decide (i = .ei) && Config.eiDelay) := by
  obtain ⟨u, hu, rfl⟩ := settle_next h
  refine ⟨u, exec_next hu, ?_⟩
  by_cases hi : i = .ei
  · subst hi
    cases hu
    rfl
  · simp [hi]

/-- An instruction at `PC` that goes on was fetched and decoded, and left one of the shapes of `exec`'s result. -/
theorem runInstr_result (h : runInstr s = .next t) :
    ∃ bytes i rest pc u, fetchInstr s = .ok (bytes, s.setPc pc) ∧ decode bytes = .ok (i, rest) ∧
      ExecResult (s.setPc pc) i u ∧ t = u.setEiShadow (decide (i = .ei) && Config.eiDelay) := by
  unfold runInstr at h
  split at h
  · cases h
  · rename_i bytes p hf
    obtain rfl := fetchInstr_frame hf
    split at h
    · cases h
    · obtain ⟨u, hx, rfl⟩ := settle_exec_next h
      exact ⟨_, _, _, _, u, hf, ‹_›, hx, rfl⟩

/-- A step that goes on leaves one of the shapes. -/
theorem step_result (h : step s = .next t) : StepResult s t := by
  rcases step_next h with ⟨hr, rfl⟩ | ⟨-, ha⟩ | ⟨-, ha⟩ | ⟨hq, hr, hi⟩ | ⟨hq, hr, rfl⟩
  · exact .reset hr
  · obtain ⟨-, -, rfl⟩ := acceptNmi_next ha
    exact .entered _ _
  · obtain ⟨target, -, -, rfl, -⟩ := acceptInt_next ha
    exact .entered _ _
  · obtain ⟨bytes, i, rest, pc, u, hf, hd, hx, rfl⟩ := runInstr_result hi
    exact .ran hq hr hf hd hx
  · exact .waited hq hr

/-- Settles O50: a reset and an entry reset `IEF1`, and every instruction keeps the order. -/
theorem stepKeepsIefOrder : Obligations.StepKeepsIefOrder := by
  intro s t hs h
  cases step_result h with
  | reset | entered => exact nofun
  | ran _ _ _ _ hx => exact hx.iefOrdered hs
  | waited => exact hs

/-- Settles O51: a reset and an entry clear the hidden bit, and an instruction sets it to `EI_DELAY` at most. -/
theorem stepKeepsShadowOff : Obligations.StepKeepsShadowOff := by
  intro s t hs h hd
  cases step_result h with
  | reset | entered => rfl
  | ran => simp [hd]
  | waited => exact hs hd

/-- Settles O53: of the shapes only an instruction that is EI, and a wait, can leave the hidden bit set. -/
theorem shadowOnlyAfterEi : Obligations.ShadowOnlyAfterEi := by
  intro s t h ht
  cases step_result h with
  | reset | entered => exact absurd ht nofun
  | ran hq hr hf hd _ =>
    simp only [State.setEiShadow_eiShadow, Bool.and_eq_true, decide_eq_true_eq] at ht
    obtain ⟨rfl, -⟩ := ht
    exact .inl ⟨hq, hr, _, _, _, hf, hd⟩
  | waited hq hr => exact .inr ⟨hq, hr, ht⟩

/-- Settles O54: an entry and a call push, and nothing else writes memory. -/
theorem stepWritesOnlyStack : Obligations.StepWritesOnlyStack := by
  intro s t h a h1 h2 h3
  cases step_result h with
  | reset | waited => rfl
  | entered ief2 target => exact (s.afterEntry_interrupted target false ief2).pushed.others a h1 h2 h3
  | ran _ _ _ _ hx => exact hx.read_mem h1 h2 h3

/-- A step is a reset, or leaves what nothing but a reset writes, apart from the input it takes. -/
theorem step_unwritten (h : step s = .next t) :
    (s.input.reset = true ∧ t = takeReset s.takeInput) ∨ s.takeInput.SameUnwritten t := by
  cases step_result h with
  | reset hr => exact .inl ⟨hr, rfl⟩
  | entered | waited => right; constructor <;> simp
  | ran _ _ _ _ hx =>
    obtain ⟨hl, ix, iy, hi, unbacked, inputs, z, pv, hs⟩ := hx.unwritten
    exact .inr ⟨hl, ix, iy, hi, unbacked, inputs, z, pv, hs⟩

/-- Settles O55: a reset keeps the two fields of the model's own, and every other step keeps all that is listed. -/
theorem stepKeepsUnwrittenState : Obligations.StepKeepsUnwrittenState := by
  intro s t h
  rcases step_unwritten h with ⟨hr, rfl⟩ | ⟨hl, ix, iy, hi, unbacked, inputs, z, pv, hs⟩
  · exact ⟨rfl, rfl, fun hn => absurd (hr.symm.trans hn) nofun⟩
  · exact ⟨unbacked, inputs, fun _ => ⟨hl, ix, iy, hi, z, pv, hs⟩⟩

/-! ### A suspended CPU, and mode 2 -/

theorem run_succ_of_step {M : Host.Core} {a b : M.State} (h : M.step a = .next b) (n : Nat) :
    M.run (n + 1) a = M.run n b := by
  rw [Host.Core.run, h]

/-- With no inputs to come nothing is requested (R34). -/
theorem noEvent_of_no_inputs (h : s.inputs = []) : s.noEvent := by simp [State.noEvent, State.input, h, Input.quiet]

/-- With no inputs to come a suspended CPU steps to the very same state (R32, R152). -/
theorem step_suspended_of_no_inputs (hr : s.run ≠ .running) (h : s.inputs = []) : step s = .next s := by
  have : s.takeInput = s := by rw [State.takeInput, h, List.tail_nil, ← h]; rfl
  rw [step_suspended (noEvent_of_no_inputs h) hr, this]

/-- Settles O45: one step by the suspended case of R152, and any number by induction on it. -/
theorem suspendedStays : Obligations.SuspendedStays := by
  refine ⟨fun s hr hq => step_suspended hq hr, fun n s hr hs => ?_⟩
  induction n with
  | zero => rfl
  | succ n ih =>
    have hstep : core.step s = .next s := step_suspended_of_no_inputs hr hs
    exact (run_succ_of_step hstep n).trans ih

/-- Settles O39: mode 2 has a target where its reads are admitted, and the acceptance enters there with both flags reset. -/
theorem maskableMode2 : Obligations.MaskableMode2 := by
  intro s ha hi hm ht hp
  have htarget : s.intTarget (Config.im2Target s.im2Value ((Config.im2Reads s.im2Value).map s.mem.read)) :=
    .inr (.inr ⟨hi, ht, rfl⟩)
  exact ⟨_, (step_int ha).trans ((acceptInt_at htarget).trans (enterInterrupt_ok hm hp)),
    s.afterEntry_interrupted _ false false, rfl, rfl⟩

end Sys2Proof.Machine
end

section
/-! Memory, fetches and the stack (20_memory.md): the canonical form along a step, where a fetch, a push and a pop go on and
where they stop, and when a whole step goes on. -/

namespace Sys2Proof.Machine

variable {s t : State} {i : Instr} {v target : Addr} {f : Fault} {n k : Nat}

/-! ### The canonical form of memory -/

/-- Only a push writes memory, and its writes keep the canonical form. -/
theorem ExecResult.mem_wf (h : ExecResult s i t) (hs : s.mem.wf) : t.mem.wf := by
  cases h with
  | called => exact State.afterPush_wf hs s.pc
  | _ => exact hs

theorem State.afterEntry_wf (h : s.mem.wf) (target : Addr) : (s.afterEntry target).mem.wf := by
  rw [State.afterEntry_mem]
  exact State.afterPush_wf h s.pc

/-- Settles O49: an entry and an instruction write memory by a push at most, and a reset and a wait leave it. -/
theorem stepKeepsMemoryForm : Obligations.StepKeepsMemoryForm := by
  intro s t hs h
  cases step_result h with
  | reset | waited => exact hs
  | entered ief2 target => exact State.afterEntry_wf (s := (s.takeInput.setIef1 false).setIef2 ief2) hs target
  | ran _ _ _ _ hx => exact hx.mem_wf hs

/-! ### Fetches -/

theorem Addr.add_one_add (a : Addr) (k : Nat) : a + 1#24 + BitVec.ofNat 24 k = a + BitVec.ofNat 24 (k + 1) := by
  rw [BitVec.add_assoc, ← BitVec.ofNat_add, Nat.add_comm]

/-- Where every byte is admitted a fetch gives the bytes from `PC` on in ascending order and moves `PC` past them (R54). -/
theorem fetchBytes_ok (h : ∀ k, k < n → s.admits .fetch (s.pc + BitVec.ofNat 24 k) = true) :
    fetchBytes n s =
      .ok ((List.range n).map (fun k => s.mem.read (s.pc + BitVec.ofNat 24 k)), s.setPc (s.pc + BitVec.ofNat 24 n)) := by
  induction n generalizing s with
  | zero => simp [fetchBytes, State.setPc]
  | succ n ih =>
    have h0 : s.admits .fetch s.pc = true := by simpa using h 0 n.succ_pos
    have hrest : fetchBytes n (s.setPc (s.pc + 1#24)) = _ := ih fun k hk => by
      simpa [Addr.add_one_add] using h (k + 1) (Nat.succ_lt_succ hk)
    simp [fetchBytes, fetch8_eq, h0, hrest, State.setPc_setPc, Addr.add_one_add, List.range_succ_eq_map]

/-- The first byte that is not admitted stops a fetch (R54, R60). -/
theorem fetchBytes_error (hk : k < n) (h : ∀ j, j < k → s.admits .fetch (s.pc + BitVec.ofNat 24 j) = true)
    (hn : s.admits .fetch (s.pc + BitVec.ofNat 24 k) = false) :
    fetchBytes n s = .error (.notAdmitted .fetch (s.pc + BitVec.ofNat 24 k)) := by
  induction n generalizing s k with
  | zero => exact absurd hk k.not_lt_zero
  | succ n ih =>
    cases k with
    | zero =>
      have h0 : s.admits .fetch s.pc = false := by simpa using hn
      simp [fetchBytes, fetch8_eq, h0]
    | succ k =>
      have h0 : s.admits .fetch s.pc = true := by simpa using h 0 k.succ_pos
      have hrest : fetchBytes n (s.setPc (s.pc + 1#24)) = _ :=
        ih (k := k) (Nat.lt_of_succ_lt_succ hk)
          (fun j hj => by simpa [Addr.add_one_add] using h (j + 1) (Nat.succ_lt_succ hj))
          (by simpa [Addr.add_one_add] using hn)
      simp [fetchBytes, fetch8_eq, h0, hrest, Addr.add_one_add]

theorem lengthOfFirst_pos (b0 : Byte) : 0 < lengthOfFirst b0 := by
  unfold lengthOfFirst
  split_ifs <;> decide

/-- An instruction fetch is a fetch of as many bytes as the byte at `PC` says (R79). -/
theorem fetchInstr_eq (s : State) : fetchInstr s = fetchBytes (lengthOfFirst (s.mem.read s.pc)) s := by
  obtain ⟨n, hn⟩ := Nat.exists_eq_succ_of_ne_zero (lengthOfFirst_pos (s.mem.read s.pc)).ne'
  by_cases h : s.admits .fetch s.pc = true
  · have hf : fetch8 s = .ok (s.mem.read s.pc, s.setPc (s.pc + 1#24)) := by simp [fetch8_eq, h]
    simp only [fetchInstr, hn, fetchBytes, hf, Nat.succ_sub_one]
  · have hf : fetch8 s = .error (.notAdmitted .fetch s.pc) := by simp [fetch8_eq, h]
    simp only [fetchInstr, hn, fetchBytes, hf]

/-- Settles O7, by induction on the number of bytes. -/
theorem fetchReadsInOrder : Obligations.FetchReadsInOrder := fun _ _ h => fetchBytes_ok h

/-- Settles O10: an encoding's first byte gives its length, and of that many bytes the first one not admitted stops the fetch,
which the step does before it decodes. -/
theorem unadmittedFetchStops : Obligations.UnadmittedFetchStops := by
  refine ⟨fun i b0 rest hw he => ?_, fun s k hq hr hk h hn => ?_⟩
  · obtain ⟨c0, tail, hc, hlen, hfirst⟩ := encode_first hw
    obtain ⟨rfl, rfl⟩ := List.cons.inj (he.symm.trans hc)
    rw [hfirst, ← hlen, he, List.length_cons]
  · have hf : fetchInstr s.takeInput = .error (.notAdmitted .fetch (s.pc + BitVec.ofNat 24 k)) :=
      (fetchInstr_eq _).trans (fetchBytes_error hk h hn)
    rw [step_running hq hr, runInstr, hf]

/-! ### Pushes that stop -/

theorem State.admits_congr (h : t.unbacked = s.unbacked) (kind : Access) (a : Addr) : t.admits kind a = s.admits kind a := by
  rw [State.admits, State.admits, h]

/-- The outcome stops under the name of the first of the three writes of a push that is not admitted (R55, R60). -/
def State.StopsAtPush (s : State) (o : Outcome) : Prop :=
  (s.admits .write (s.sp - 1#24) = false → o = .fault (.notAdmitted .write (s.sp - 1#24))) ∧
  (s.admits .write (s.sp - 1#24) = true → s.admits .write (s.sp - 2#24) = false →
    o = .fault (.notAdmitted .write (s.sp - 2#24))) ∧
  (s.admits .write (s.sp - 1#24) = true → s.admits .write (s.sp - 2#24) = true →
    s.admits .write (s.sp - 3#24) = false → o = .fault (.notAdmitted .write (s.sp - 3#24)))

/-- Only the stack pointer and the platform decide where a call stops. -/
theorem callTo_stopsAtPush (hsp : t.sp = s.sp) (hu : t.unbacked = s.unbacked) (target : Addr) :
    s.StopsAtPush (callTo target t) := by
  simp only [callTo_eq, hsp, State.admits_congr hu]
  refine ⟨fun h1 => ?_, fun h1 h2 => ?_, fun h1 h2 h3 => ?_⟩
  · simp [h1]
  · simp [h1, h2]
  · simp [h1, h2, h3]

/-- An entry to a target that is known is a call from the state that runs without the hidden bit (R155). -/
theorem enterInterrupt_eq_callTo (hm : s.madl = false) :
    enterInterrupt (.ok target) s = callTo target ((s.setRun .running).setEiShadow false) := by
  simp [enterInterrupt, hm]

theorem stackUse_push_iff {f : Flags} :
    stackUse f i = .push ↔
      (∃ a, i = .call a) ∨ (∃ cc a, i = .callCc cc a ∧ condHolds cc f = true) ∨ ∃ r, i = .rst r := by
  refine ⟨stackUse_push, ?_⟩
  rintro (⟨a, rfl⟩ | ⟨cc, a, rfl, hc⟩ | ⟨r, rfl⟩)
  · rfl
  · simp [stackUse, hc]
  · rfl

/-- An instruction that pushes is a call (R122, R135). -/
theorem exec_of_push (h : stackUse s.flags i = .push) : ∃ target, exec i s = callTo target s := by
  rcases stackUse_push h with ⟨a, rfl⟩ | ⟨cc, a, rfl, hc⟩ | ⟨r, rfl⟩
  · exact ⟨a, rfl⟩
  · exact ⟨a, by simp [exec, execCallCc, hc]⟩
  · exact ⟨restartTarget r, rfl⟩

theorem exec_stopsAtPush (h : stackUse s.flags i = .push) : s.StopsAtPush (exec i s) := by
  obtain ⟨target, hx⟩ := exec_of_push h
  rw [hx]
  exact callTo_stopsAtPush rfl rfl target

theorem step_stopsAtPush (hm : s.madl = false) (h : s.entersAt target) : s.StopsAtPush (step s) := by
  obtain ⟨a, b, hx⟩ := step_enters h
  have hm' : ((s.takeInput.setIef1 a).setIef2 b).madl = false := hm
  rw [hx, enterInterrupt_eq_callTo hm']
  exact callTo_stopsAtPush (by simp) (by simp) target

/-- Settles O28: an instruction that pushes and an entry are calls, and a call stops at the first write not admitted. -/
theorem pushStops : Obligations.PushStops :=
  ⟨fun _ _ hi => exec_stopsAtPush (stackUse_push_iff.mpr hi), fun _ _ hm he => step_stopsAtPush hm he⟩

/-! ### Pops that stop -/

theorem stackUse_pop_iff {f : Flags} :
    stackUse f i = .pop ↔ i = .ret ∨ i = .reti ∨ i = .retn ∨ ∃ cc, i = .retCc cc ∧ condHolds cc f = true := by
  cases i with
  | callCc cc a => simp only [stackUse]; split <;> simp
  | _ => simp [stackUse]

/-- An instruction that pops is the return to the top of the stack, or RETN (R131 to R134). -/
theorem exec_of_pop (h : stackUse s.flags i = .pop) : exec i s = returnTop s ∨ exec i s = returnFromNmi s := by
  rcases stackUse_pop_iff.mp h with rfl | rfl | rfl | ⟨cc, rfl, hc⟩
  · exact .inl rfl
  · exact .inl rfl
  · exact .inr rfl
  · exact .inl (by simp [exec, execRetCc, hc])

/-- A pop that stops stops the instruction that makes it. -/
theorem exec_of_pop_error (h : stackUse s.flags i = .pop) (hp : pop24 s = .error f) : exec i s = .fault f := by
  rcases exec_of_pop h with hx | hx
  · rw [hx, returnTop, hp]
  · rw [hx, returnFromNmi, hp]

/-- Settles O29: a pop stops at the first read not admitted, and the instruction with it. -/
theorem popStops : Obligations.PopStops := by
  intro s i hi
  have hu := stackUse_pop_iff.mpr hi
  refine ⟨fun h1 => ?_, fun h1 h2 => ?_, fun h1 h2 h3 => ?_⟩ <;> refine exec_of_pop_error hu ?_
  · simp [pop24_eq, h1]
  · simp [pop24_eq, h1, h2]
  · simp [pop24_eq, h1, h2, h3]

/-! ### A push and the pop that follows it -/

theorem Addr.sub_three_add_one (a : Addr) : a - 3#24 + 1#24 = a - 2#24 := by bv_omega

theorem Addr.sub_three_add_two (a : Addr) : a - 3#24 + 2#24 = a - 1#24 := by bv_omega

/-- The value pushed is what the next pop gives (R61). -/
theorem State.Pushed.stackTop (h : s.Pushed t v) : t.stackTop = v := by
  obtain ⟨hsp, hlow, hmid, hhigh, -⟩ := h
  simp only [State.stackTop, hsp, Addr.sub_three_add_one, Addr.sub_three_add_two, hlow, hmid, hhigh]
  exact append_parts v

/-- The bytes pushed are the bytes the next pop reads. -/
theorem State.Pushed.popReady (h : s.Pushed t v) (hu : t.unbacked = s.unbacked) (h1 : s.admits .read (s.sp - 1#24) = true)
    (h2 : s.admits .read (s.sp - 2#24) = true) (h3 : s.admits .read (s.sp - 3#24) = true) : t.popReady := by
  simp [State.popReady, State.admits_congr hu, h.sp, Addr.sub_three_add_one, Addr.sub_three_add_two, h1, h2, h3]

/-- A jump leaves a pushed value where it is. -/
theorem State.Pushed.setPc (h : s.Pushed t v) (p : Addr) : s.Pushed (t.setPc p) v :=
  ⟨h.sp, h.low, h.mid, h.high, h.others⟩

/-- Settles O35: what CALL pushes is still there whatever the called code made of `PC`, and a pop gives it back. -/
theorem callThenReturn : Obligations.CallThenReturn := by
  intro s a hp h1 h2 h3
  refine ⟨_, callTo_ok hp, fun p => ?_⟩
  have hpushed := (s.afterPush_called a).pushed.setPc p
  refine ⟨_, returnTop_ok (hpushed.popReady rfl h1 h2 h3), hpushed.stackTop, ?_⟩
  exact BitVec.sub_add_cancel s.sp 3#24

/-! ### Decoding an encoded instruction -/

theorem withImm24_bytes (mk : Addr → Instr) (a : Addr) (rest : List Byte) :
    withImm24 mk (imm24Bytes a ++ rest) = .ok (mk a, rest) := by
  simp [imm24Bytes, withImm24, imm24OfBytes_bytes]

/-- The eight opcodes `11 ttt 111` decode to RST with their field `t` (R74). -/
theorem decode_rst (t : BitVec 3) (rest : List Byte) : decode (encode (.rst t) ++ rest) = .ok (.rst t, rest) := by
  have ht : t = 0#3 ∨ t = 1#3 ∨ t = 2#3 ∨ t = 3#3 ∨ t = 4#3 ∨ t = 5#3 ∨ t = 6#3 ∨ t = 7#3 := by
    revert t
    decide
  rcases ht with rfl | rfl | rfl | rfl | rfl | rfl | rfl | rfl <;> rfl

/-- The decoder gives a well-formed instruction back from its encoding (R85). -/
theorem decode_encode (hw : i.wellFormed = true) (rest : List Byte) : decode (encode i ++ rest) = .ok (i, rest) := by
  cases i with
  | call a => exact withImm24_bytes .call a rest
  | jp a => exact withImm24_bytes .jp a rest
  | callCc cc a => cases cc <;> exact withImm24_bytes _ a rest
  | jpCc cc a => cases cc <;> exact withImm24_bytes _ a rest
  | jrCc cc d =>
    cases cc with
    | nz | z | nc | c => rfl
    | po | pe | p | m => cases hw
  | retCc cc => cases cc <;> rfl
  | rst t => exact decode_rst t rest
  | _ => rfl

/-! ### Steps that go on -/

/-- An instruction that leaves the stack alone always goes on. -/
theorem exec_of_untouched (h : stackUse s.flags i = .untouched) : ∃ t, exec i s = .next t := by
  cases i with
  | call a | ret | reti | retn | rst r => cases h
  | callCc cc a | retCc cc =>
    simp only [stackUse] at h
    split at h
    next => cases h
    next hc => exact ⟨s, by simp [exec, execCallCc, execRetCc, hc]⟩
  | jpCc cc a | jrCc cc d =>
    simp only [exec, execJpCc, execJrCc]
    split <;> exact ⟨_, rfl⟩
  | djnz d =>
    simp only [exec, execDjnz]
    split <;> exact ⟨_, rfl⟩
  | _ => exact ⟨_, rfl⟩

theorem State.admits_of_no_region (h : s.unbacked = []) (kind : Access) (a : Addr) : s.admits kind a = true := by
  simp [State.admits, h]

theorem State.pushReady_of_no_region (h : s.unbacked = []) : s.pushReady :=
  ⟨s.admits_of_no_region h _ _, s.admits_of_no_region h _ _, s.admits_of_no_region h _ _⟩

theorem State.popReady_of_no_region (h : s.unbacked = []) : s.popReady :=
  ⟨s.admits_of_no_region h _ _, s.admits_of_no_region h _ _, s.admits_of_no_region h _ _⟩

/-- An instruction goes on where the platform admits the push or the pop that it makes (R150). -/
theorem exec_goesOn (hpush : stackUse s.flags i = .push → s.pushReady) (hpop : stackUse s.flags i = .pop → s.popReady) :
    ∃ t, exec i s = .next t := by
  cases hu : stackUse s.flags i with
  | push =>
    obtain ⟨target, hx⟩ := exec_of_push hu
    exact ⟨_, hx.trans (callTo_ok (hpush hu))⟩
  | pop =>
    rcases exec_of_pop hu with hx | hx
    · exact ⟨_, hx.trans (returnTop_ok (hpop hu))⟩
    · exact ⟨_, hx.trans (returnFromNmi_ok (hpop hu))⟩
  | untouched => exact exec_of_untouched hu

theorem settle_goesOn {o : Outcome} (h : ∃ t, o = .next t) : ∃ t, settle i o = .next t := by
  obtain ⟨t, rfl⟩ := h
  simp only [settle]
  split
  · exact ⟨_, rfl⟩
  · exact ⟨_, rfl⟩

/-- Which code stands where depends on memory and the platform alone. -/
theorem State.holdsCode_congr (hm : t.mem = s.mem) (hu : t.unbacked = s.unbacked) (bytes : List Byte) (a : Addr) :
    t.holdsCode bytes a = s.holdsCode bytes a := by
  induction bytes generalizing a with
  | nil => rfl
  | cons b bytes ih => simp only [State.holdsCode, hm, State.admits_congr hu, ih]

/-- Bytes that stand at `PC` in fetchable memory are what a fetch of their number gives (R54). -/
theorem fetchBytes_of_holdsCode {bytes : List Byte} (h : s.holdsCode bytes s.pc = true) :
    fetchBytes bytes.length s = .ok (bytes, s.setPc (s.pc + BitVec.ofNat 24 bytes.length)) := by
  induction bytes generalizing s with
  | nil => simp [fetchBytes, State.setPc]
  | cons b bytes ih =>
    simp only [State.holdsCode, Bool.and_eq_true, decide_eq_true_eq] at h
    obtain ⟨⟨hb, ha⟩, hrest⟩ := h
    have hnext : (s.setPc (s.pc + 1#24)).holdsCode bytes (s.pc + 1#24) = true :=
      (State.holdsCode_congr (s := s) (t := s.setPc (s.pc + 1#24)) rfl rfl bytes _).trans hrest
    have hf := ih (s := s.setPc (s.pc + 1#24)) hnext
    simp [fetchBytes, fetch8_eq, ha, hb, hf, State.setPc_setPc, Addr.add_one_add]

/-- The instruction whose encoding stands at `PC` is what a fetch gives (R54, R79). -/
theorem fetchInstr_of_holdsCode (hw : i.wellFormed = true) (h : s.holdsCode (encode i) s.pc = true) :
    fetchInstr s = .ok (encode i, s.setPc (s.pc + BitVec.ofNat 24 i.length)) := by
  obtain ⟨b0, tail, he, hlen, hfirst⟩ := encode_first hw
  have hb : s.mem.read s.pc = b0 := by
    rw [he] at h
    simp only [State.holdsCode, Bool.and_eq_true, decide_eq_true_eq] at h
    exact h.1.1
  rw [fetchInstr_eq, hb, hfirst, ← hlen]
  exact fetchBytes_of_holdsCode h

/-- The instruction whose encoding stands at `PC` is what runs (R152). -/
theorem runInstr_of_holdsCode (hw : i.wellFormed = true) (h : s.holdsCode (encode i) s.pc = true) :
    runInstr s = settle i (exec i (s.setPc (s.pc + BitVec.ofNat 24 i.length))) := by
  have hd : decode (encode i) = .ok (i, []) := by simpa using decode_encode hw []
  rw [runInstr, fetchInstr_of_holdsCode hw h]
  simp only [hd]

theorem runInstr_goesOn (hw : i.wellFormed = true) (h : s.holdsCode (encode i) s.pc = true)
    (hpush : stackUse s.flags i = .push → s.pushReady) (hpop : stackUse s.flags i = .pop → s.popReady) :
    ∃ t, runInstr s = .next t := by
  rw [runInstr_of_holdsCode hw h]
  exact settle_goesOn (exec_goesOn (s := s.setPc (s.pc + BitVec.ofNat 24 i.length)) hpush hpop)

theorem step_reset (h : s.input.reset = true) : step s = .next (takeReset s.takeInput) := by
  simp [step, boundary, h]

/-- What a boundary presents: RESET, an NMI, a maskable interrupt that is accepted, or no event (R152). -/
theorem State.event_cases (s : State) : s.input.reset = true ∨ s.nmiAccepted ∨ s.intAccepted ∨ s.noEvent := by
  unfold State.nmiAccepted State.intAccepted State.noEvent
  cases s.input.reset <;> cases s.input.nmi <;> simp

/-- A maskable acceptance has a target where its reads are admitted and a mode 0 device inserts an RST (R157, R158). -/
theorem State.exists_intTarget (ht : s.tableReady)
    (h0 : s.im = .mode0 → ∃ t : BitVec 3, s.input.device = BitVec.ofNat 8 (0xC7 + 8 * t.toNat)) :
    ∃ target, s.intTarget target := by
  cases hm : s.im with
  | mode0 =>
    obtain ⟨t, hd⟩ := h0 hm
    exact ⟨_, .inl ⟨hm, t, hd, rfl⟩⟩
  | mode1 => exact ⟨_, .inr (.inl ⟨hm, rfl⟩)⟩
  | mode2 => exact ⟨_, .inr (.inr ⟨hm, ht, rfl⟩)⟩

/-- An acceptance that has a target goes on where the push is admitted (R155). -/
theorem step_enters_goesOn (hm : s.madl = false) (hp : s.pushReady) (h : s.entersAt target) : s.goesOn := by
  obtain ⟨a, b, hx⟩ := step_enters h
  exact ⟨_, hx.trans (enterInterrupt_ok hm hp)⟩

/-- Settles O56, by what the boundary presents. -/
theorem stepGoesOn : Obligations.StepGoesOn := by
  intro s hu hm h0 hcode
  have hp := s.pushReady_of_no_region hu
  rcases s.event_cases with hr | hn | hi | hq
  · exact ⟨_, step_reset hr⟩
  · exact step_enters_goesOn hm hp (.inl ⟨hn, rfl⟩)
  · obtain ⟨target, ht⟩ := State.exists_intTarget (fun a _ => s.admits_of_no_region hu .read a) (h0 hi)
    exact step_enters_goesOn hm hp (.inr ⟨hi, ht⟩)
  · by_cases hr : s.run = .running
    · obtain ⟨i, hw, hc⟩ := hcode hq hr
      obtain ⟨t, ht⟩ := runInstr_goesOn hw
        ((State.holdsCode_congr (s := s) (t := s.takeInput) rfl rfl _ _).trans hc)
        (fun _ => s.takeInput.pushReady_of_no_region hu) (fun _ => s.takeInput.popReady_of_no_region hu)
      exact ⟨t, (step_running hq hr).trans ht⟩
    · exact ⟨_, step_suspended hq hr⟩

/-! ### Mode 2 -/

theorem enterInterrupt_error (hm : s.madl = false) : enterInterrupt (.error f) s = .fault f := by
  simp [enterInterrupt, hm]

/-- A maskable acceptance in mode 2 finds its target from memory as it stands and then enters there (R158, R159). -/
theorem step_mode2 (h : s.intAccepted) (hi : s.im = .mode2) :
    step s = enterInterrupt (im2Entry s.input.device s.takeInput) ((s.takeInput.setIef1 false).setIef2 false) := by
  rw [step_int h, acceptInt, State.takeInput_im, hi]

/-- The target of mode 2 at a boundary: the first read not admitted stops it (R158, R60). -/
theorem im2Entry_takeInput (s : State) :
    im2Entry s.input.device s.takeInput =
      (match (Config.im2Reads s.im2Value).find? (fun a => !s.admits .read a) with
        | some a => .error (.notAdmitted .read a)
        | none => .ok (Config.im2Target s.im2Value ((Config.im2Reads s.im2Value).map s.mem.read))) := by
  have hw : im2Word s.takeInput.i s.input.device = s.im2Value := im2Word_eq _ _
  rw [im2Entry_eq, hw]
  rfl

/-- Settles O57: the reads decide whether there is a target, and an entry to one goes on exactly if its push does. -/
theorem maskableMode2ReadStops : Obligations.MaskableMode2ReadStops := by
  intro s ha hi hm
  have hstep := step_mode2 ha hi
  rw [im2Entry_takeInput] at hstep
  cases hfind : (Config.im2Reads s.im2Value).find? (fun a => !s.admits .read a) with
  | some a =>
    rw [hfind] at hstep
    exact hstep.trans (enterInterrupt_error hm)
  | none =>
    rw [hfind] at hstep
    constructor
    · rintro ⟨t, ht⟩
      obtain ⟨-, -, -, hp, -⟩ := enterInterrupt_next (hstep.symm.trans ht)
      exact hp
    · intro hp
      exact ⟨_, hstep.trans (enterInterrupt_ok hm hp)⟩

end Sys2Proof.Machine
end

section
/-! The encoding (30_encoding.md): what the decoder answers and refuses, and the encodings of RST and IM. -/

namespace Sys2Proof.Machine

variable {s t : State} {i : Instr} {b0 b1 : Byte} {bytes rest r : List Byte}

/-- Settles O2, by the case split over the instructions in `decode_encode`. -/
theorem decodeOfEncode : Obligations.DecodeOfEncode := fun _ rest hw => decode_encode hw rest

/-! ### What the decoder answers -/

/-- Whatever instruction the answer gives is well-formed, and the bytes are its encoding and the rest. -/
def Reads (bytes : List Byte) (answer : Decoded) : Prop :=
  ∀ i r, answer = .ok (i, r) → i.wellFormed = true ∧ bytes = encode i ++ r

theorem Reads.error (why : Reject) : Reads bytes (.error why) := nofun

theorem Reads.opcode (hw : i.wellFormed = true) (he : encode i = bytes) : Reads (bytes ++ rest) (.ok (i, rest)) := by
  intro j r h
  cases h
  exact ⟨hw, by rw [he]⟩

theorem Reads.ofs8 {mk : Byte → Instr} (h : ∀ d, (mk d).wellFormed = true ∧ encode (mk d) = [b0, d]) :
    Reads (b0 :: rest) (withOfs8 mk rest) := by
  intro j r hj
  obtain ⟨d, rfl, rfl⟩ := withOfs8_ok hj
  obtain ⟨hw, he⟩ := h d
  exact ⟨hw, by rw [he]; rfl⟩

theorem Reads.imm24 {mk : Addr → Instr} (h : ∀ a, (mk a).wellFormed = true ∧ encode (mk a) = b0 :: imm24Bytes a) :
    Reads (b0 :: rest) (withImm24 mk rest) := by
  intro j r hj
  obtain ⟨a, rfl, rfl⟩ := withImm24_ok hj
  obtain ⟨hw, he⟩ := h a
  exact ⟨hw, by rw [he]; rfl⟩

theorem Reads.index (hw : i.wellFormed = true) (he : encode i = [b0, 0xE9#8]) :
    Reads (b0 :: rest) (decodeIndex b0 i rest) := by
  intro j r hj
  obtain ⟨rfl, rfl⟩ := decodeIndex_ok hj
  exact ⟨hw, by rw [he]; rfl⟩

/-- A test of the decoder: each branch reads, the first one under what was tested. -/
theorem Reads.test {c : Prop} [Decidable c] {x y : Decoded} (hx : c → Reads bytes x) (hy : Reads bytes y) :
    Reads bytes (if c then x else y) := by
  split
  · exact hx ‹c›
  · exact hy

/-- The bytes after `$ED`: eight encodings, two refusals (R79, R82). -/
theorem reads_decodeEd (rest : List Byte) : Reads (0xED#8 :: rest) (decodeEd rest) := by
  cases rest with
  | nil => exact .error _
  | cons b1 rest =>
    refine .test ?_ <| .test ?_ <| .test ?_ <| .test ?_ <| .test ?_ <| .test ?_ <| .test ?_ <| .test ?_ <|
      .test (fun _ => .error _) (.error _)
    all_goals
      rintro rfl
      exact .opcode rfl rfl

/-- A first byte that holds a field is put together again from that field and its fixed bits (R71). -/
theorem reads_decodeField (b0 : Byte) (rest : List Byte) : Reads (b0 :: rest) (decodeField b0 rest) := by
  refine .test (fun hhigh => ?_) (.error _)
  have hb := byte_of_fields b0 hhigh
  refine .test (fun h0 => ?retCc) <| .test (fun h2 => ?jpCc) <| .test (fun h4 => ?callCc) <|
    .test (fun h7 => ?rst) (.error _)
  case retCc =>
    rw [h0] at hb
    exact .opcode (bytes := [b0]) rfl (by rw [encode, code3_condOfCode3, ← hb])
  case jpCc =>
    rw [h2] at hb
    exact .imm24 fun a => ⟨rfl, by rw [encode, code3_condOfCode3, ← hb]⟩
  case callCc =>
    rw [h4] at hb
    exact .imm24 fun a => ⟨rfl, by rw [encode, code3_condOfCode3, ← hb]⟩
  case rst =>
    rw [h7] at hb
    exact .opcode (bytes := [b0]) rfl (by rw [encode, ← hb])

/-- The decoder reads encodings of well-formed instructions only: one line for each test of the first byte (R80, R85). -/
theorem reads_decode (bytes : List Byte) : Reads bytes (decode bytes) := by
  cases bytes with
  | nil => exact .error _
  | cons b0 rest =>
    refine .test (by rintro rfl; exact .opcode rfl rfl) ?_
    refine .test (by rintro rfl; exact .ofs8 fun _ => ⟨rfl, rfl⟩) ?_
    refine .test (by rintro rfl; exact .ofs8 fun _ => ⟨rfl, rfl⟩) ?_
    refine .test (by rintro (rfl | rfl | rfl | rfl) <;> exact .ofs8 fun _ => ⟨rfl, rfl⟩) ?_
    refine .test (by rintro rfl; exact .opcode rfl rfl) ?_
    refine .test (by rintro rfl; exact .opcode rfl rfl) ?_
    refine .test (by rintro rfl; exact .opcode rfl rfl) ?_
    refine .test (by rintro rfl; exact .imm24 fun _ => ⟨rfl, rfl⟩) ?_
    refine .test (by rintro rfl; exact .opcode rfl rfl) ?_
    refine .test (by rintro rfl; exact .imm24 fun _ => ⟨rfl, rfl⟩) ?_
    refine .test (by rintro rfl; exact .opcode rfl rfl) ?_
    refine .test (by rintro rfl; exact .opcode rfl rfl) ?_
    refine .test (by rintro rfl; exact .opcode rfl rfl) ?_
    refine .test (by rintro rfl; exact .index rfl rfl) ?_
    refine .test (by rintro rfl; exact .index rfl rfl) ?_
    refine .test (by rintro rfl; exact reads_decodeEd rest) ?_
    exact reads_decodeField b0 rest

theorem decode_ok (h : decode bytes = .ok (i, r)) : i.wellFormed = true ∧ bytes = encode i ++ r :=
  reads_decode bytes i r h

/-- Settles O3: every branch of the decoder reads an encoding. -/
theorem encodeOfDecode : Obligations.EncodeOfDecode := fun _ _ _ h => decode_ok h

/-! ### What the decoder refuses -/

/-- The bytes of the four patterns with a field are first bytes of the map (R71, R80). -/
theorem mem_firstBytes_of_field : ∀ b0 : Byte, b0.extractLsb' 6 2 = 0b11#2 →
    b0.extractLsb' 0 3 = 0b000#3 ∨ b0.extractLsb' 0 3 = 0b010#3 ∨ b0.extractLsb' 0 3 = 0b100#3 ∨
      b0.extractLsb' 0 3 = 0b111#3 → b0 ∈ firstBytes := by decide

theorem decodeField_error (h : b0 ∉ firstBytes) (rest : List Byte) :
    decodeField b0 rest = .error (.firstByte b0) := by
  by_cases hhigh : b0.extractLsb' 6 2 = 0b11#2
  · have hlow := mt (mem_firstBytes_of_field b0 hhigh) h
    simp only [not_or] at hlow
    simp [decodeField, hlow]
  · simp [decodeField, hhigh]

/-- Outside the map no opcode of a fixed value is read, so the field patterns decide (R80, R81). -/
theorem decode_eq_decodeField (h : b0 ∉ firstBytes) (rest : List Byte) :
    decode (b0 :: rest) = decodeField b0 rest := by
  simp only [firstBytes, List.mem_append, List.mem_cons, not_or] at h
  simp [decode, h]

theorem decodeEd_error (h : b1 ∉ secondBytesEd) (rest : List Byte) :
    decodeEd (b1 :: rest) = .error (if b1 = 0x4E#8 then .imField01 else .afterEd b1) := by
  simp only [secondBytesEd, List.mem_cons, not_or] at h
  simp only [decodeEd, h, if_false]
  split_ifs <;> rfl

theorem decodeIndex_error (h : b1 ≠ 0xE9#8) (b0 : Byte) (i : Instr) (rest : List Byte) :
    decodeIndex b0 i (b1 :: rest) = .error (.afterIndex b0 b1) := by
  simp [decodeIndex, h]

/-- Settles O4: a first byte outside the map is left to the field patterns, and none of them holds it; a second byte outside
the map is none of those `decodeEd` and `decodeIndex` compare it with. -/
theorem unlistedBytesRefused : Obligations.UnlistedBytesRefused := by
  refine ⟨rfl, by decide, fun b0 rest h => ?_, fun b1 rest h => decodeEd_error h rest, fun b0 b1 rest h0 h1 => ?_⟩
  · exact (decode_eq_decodeField h rest).trans (decodeField_error h rest)
  · rcases h0 with rfl | rfl
    · exact decodeIndex_error h1 0xDD#8 .jpIx rest
    · exact decodeIndex_error h1 0xFD#8 .jpIy rest

/-- A fetch reads as many bytes as the first of them says (R79). -/
theorem fetchInstr_length (h : fetchInstr s = .ok (bytes, t)) :
    ∃ b0 tail, bytes = b0 :: tail ∧ bytes.length = lengthOfFirst b0 := by
  unfold fetchInstr at h
  split at h
  · cases h
  next b0 s1 hf =>
    split at h
    · cases h
    · cases h
      obtain ⟨-, hlen⟩ := fetchBytes_frame ‹_›
      refine ⟨_, _, rfl, ?_⟩
      rw [List.length_cons, hlen, Nat.sub_add_cancel (lengthOfFirst_pos b0)]

/-- Bytes fetched as one instruction and decoded are its encoding and nothing more: the first byte gives the length of both
(R70, R79). -/
theorem fetchInstr_eq_encode (hf : fetchInstr s = .ok (bytes, t)) (hd : decode bytes = .ok (i, r)) :
    i.wellFormed = true ∧ bytes = encode i := by
  obtain ⟨hw, rfl⟩ := decode_ok hd
  obtain ⟨b0, tail, hb, hlen⟩ := fetchInstr_length hf
  obtain ⟨c0, tail', he, helen, hfirst⟩ := encode_first hw
  have hhead : c0 = b0 := by
    rw [he] at hb
    exact List.head_eq_of_cons_eq hb
  have hr : r.length = 0 := by
    rw [List.length_append, helen, ← hfirst, hhead] at hlen
    omega
  rw [List.eq_nil_of_length_eq_zero hr, List.append_nil]
  exact ⟨hw, rfl⟩

/-- Settles O6: were the bytes decoded, they would be the encoding of a well-formed instruction. -/
theorem outsideTableRefusedByStep : Obligations.OutsideTableRefusedByStep := by
  intro s t bytes hq hr hf hne
  cases hd : decode bytes with
  | error why => exact ⟨why, by simp only [step_running hq hr, runInstr, hf, hd]⟩
  | ok p =>
    obtain ⟨hw, he⟩ := fetchInstr_eq_encode (i := p.1) (r := p.2) hf hd
    exact absurd he (hne p.1 hw)

/-! ### RST and IM -/

/-- The opcode of RST is `$C7 + 8t` (R74). -/
theorem encode_rst : ∀ t : BitVec 3, encode (.rst t) = [BitVec.ofNat 8 (0xC7 + 8 * t.toNat)] := by decide

/-- Settles O24: RST is a call of its restart address. -/
theorem rstResult : Obligations.RstResult := by
  refine ⟨encode_rst, fun s t hp => ⟨_, callTo_ok hp, ?_⟩⟩
  rw [← restartTarget_eq]
  exact s.afterPush_called (restartTarget t)

/-- Settles O1, by running the decoder on each word. -/
theorem specWordsDecode : Obligations.SpecWordsDecode :=
  ⟨rfl, rfl, rfl, rfl, rfl, rfl, rfl, rfl, rfl, rfl, rfl, rfl⟩

/-- The decoder would give a well-formed instruction back from `$ED $4E`, and a term `jr cc` has another first byte (R82). -/
theorem encode_ne_imField01 (i : Instr) : encode i ≠ [0xED#8, 0x4E#8] := by
  intro h
  by_cases hw : i.wellFormed = true
  · have hd := decode_encode hw []
    rw [h] at hd
    cases hd
  · cases i with
    | jrCc cc d =>
      have h0 : 0b001#3 ++ cc.code2 ++ 0b000#3 = 0xED#8 := List.head_eq_of_cons_eq h
      cases cc <;> exact absurd h0 (by decide)
    | _ => exact hw rfl

/-- Settles O5. -/
theorem imField01Refused : Obligations.ImField01Refused := ⟨fun _ => rfl, encode_ne_imField01⟩

/-- Settles O14: the three encodings and meanings by running the model. -/
theorem imResult : Obligations.ImResult := ⟨rfl, rfl, rfl, encode_ne_imField01, fun _ => ⟨rfl, rfl, rfl⟩⟩

end Sys2Proof.Machine
end

section
/-! Processor control (40_processor_control.md): the flag, interrupt, mixed mode and suspending instructions, a step that runs
NOP, HALT or SLP, and the interrupt that ends a suspension. -/

namespace Sys2Proof.Machine

variable {s t u : State} {i : Instr} {v target : Addr} {x : Input} {xs : List Input}

/-! ### Steps that run an instruction or enter an interrupt -/

/-- With no event and the CPU running, the instruction whose encoding stands at `PC` is what the step runs (R152). -/
theorem step_of_holdsCode (hw : i.wellFormed = true) (hq : s.noEvent) (hr : s.run = .running)
    (h : s.holdsCode (encode i) s.pc = true) :
    step s = settle i (exec i (s.takeInput.setPc (s.pc + BitVec.ofNat 24 i.length))) :=
  (step_running hq hr).trans
    (runInstr_of_holdsCode hw ((State.holdsCode_congr (s := s) (t := s.takeInput) rfl rfl _ _).trans h))

/-- Every instruction but EI clears the hidden bit (R33, R152). -/
theorem settle_of_ne_ei (hi : i ≠ .ei) (t : State) : settle i (.next t) = .next (t.setEiShadow false) := if_neg hi

/-- An acceptance that has a target enters it where the push is admitted (R155). -/
theorem step_enters_interrupted (hm : s.madl = false) (hp : s.pushReady) (h : s.entersAt target) :
    ∃ u, step s = .next u ∧ s.Interrupted u target := by
  obtain ⟨a, b, hx⟩ := step_enters h
  exact ⟨_, hx.trans (enterInterrupt_ok hm hp), s.afterEntry_interrupted target a b⟩

/-- What was pushed is told from the stack pointer and the memory before it alone. -/
theorem State.Pushed.congr_before (h : t.Pushed u v) (hsp : t.sp = s.sp) (hm : t.mem = s.mem) : s.Pushed u v := by
  obtain ⟨sp, low, mid, high, others⟩ := h
  rw [hsp] at sp low mid high others
  rw [hm] at others
  exact ⟨sp, low, mid, high, others⟩

theorem State.input_of_cons (h : s.inputs = x :: xs) : s.input = x := by rw [State.input, h]

/-! ### NOP -/

/-- Settles O15: the step runs NOP on the state with `PC` past it, and then clears the hidden bit. -/
theorem nopResult : Obligations.NopResult :=
  ⟨rfl, fun _ => rfl, fun _ hq hr hc =>
    (step_of_holdsCode (i := .nop) rfl hq hr hc).trans (settle_of_ne_ei (i := .nop) nofun _)⟩

/-! ### HALT and SLP -/

/-- The run state that HALT or SLP sets (R103, R108). -/
def suspension (i : Instr) : RunState := if i = .halt then .halted else .sleeping

theorem exec_suspends (hi : i = .halt ∨ i = .slp) (s : State) : exec i s = .next (s.setRun (suspension i)) := by
  rcases hi with rfl | rfl <;> rfl

/-- The state after a step that runs HALT or SLP: past the instruction, without the hidden bit, and suspended. -/
def State.afterSuspend (s : State) (i : Instr) : State :=
  ((s.takeInput.setPc (s.pc + BitVec.ofNat 24 i.length)).setRun (suspension i)).setEiShadow false

theorem step_suspends (hi : i = .halt ∨ i = .slp) (hq : s.noEvent) (hr : s.run = .running)
    (hc : s.holdsCode (encode i) s.pc = true) : step s = .next (s.afterSuspend i) := by
  have hw : i.wellFormed = true := by rcases hi with rfl | rfl <;> rfl
  have he : i ≠ .ei := by rcases hi with rfl | rfl <;> exact nofun
  rw [step_of_holdsCode hw hq hr hc, exec_suspends hi, settle_of_ne_ei he]
  rfl

/-- An acceptance out of a suspension runs again at its target, and what it pushed is the address after HALT or SLP, on the
stack as it was before that instruction (R155, R167). -/
theorem step_afterSuspend_enters (hm : s.madl = false) (hp : s.pushReady) (h : (s.afterSuspend i).entersAt target) :
    ∃ u, step (s.afterSuspend i) = .next u ∧ u.run = .running ∧ u.pc = target ∧
      s.Pushed u (s.pc + BitVec.ofNat 24 i.length) := by
  obtain ⟨u, hu, hentry⟩ := step_enters_interrupted (s := s.afterSuspend i) hm hp h
  exact ⟨u, hu, hentry.run, hentry.pc, hentry.pushed.congr_before rfl rfl⟩

/-- Settles O46: the state after HALT or SLP keeps the enables and clears the hidden bit, so what the next boundary presents is
accepted there. -/
theorem interruptEndsSuspension : Obligations.InterruptEndsSuspension := by
  intro s i x xs hi hq hr hc hxs hreset hm hp
  have hx : (s.afterSuspend i).input = x := State.input_of_cons hxs
  refine ⟨s.afterSuspend i, step_suspends hi hq hr hc, rfl, rfl, hxs, fun hnmi => ?_, fun hnmi hint hief target ht => ?_⟩
  · have ha : (s.afterSuspend i).nmiAccepted := by rw [State.nmiAccepted, hx]; exact ⟨hreset, hnmi⟩
    exact step_afterSuspend_enters hm hp (.inl ⟨ha, rfl⟩)
  · have ha : (s.afterSuspend i).intAccepted := by rw [State.intAccepted, hx]; exact ⟨hreset, hnmi, hint, hief, rfl⟩
    exact step_afterSuspend_enters hm hp (.inr ⟨ha, ht⟩)

/-- Settles O13. -/
theorem haltSlpResult : Obligations.HaltSlpResult :=
  ⟨rfl, rfl, fun s => ⟨exec_suspends (.inl rfl) s, exec_suspends (.inr rfl) s⟩⟩

/-! ### Flags, interrupt flags and the mixed memory mode flag -/

/-- Settles O11: the two flag computations are `complementCarry` and `setCarry`. -/
theorem ccfScfResult : Obligations.CcfScfResult := ⟨rfl, rfl, fun _ => ⟨rfl, rfl⟩⟩

/-- Settles O12: DI leaves `IEF1 = 0`; EI leaves `IEF1 = 1` and the hidden bit at `EI_DELAY`, the one condition of acceptance
left beside the requests, which neither touches. -/
theorem diEiResult : Obligations.DiEiResult := by
  refine ⟨rfl, rfl, fun s => ⟨_, _, rfl, rfl, rfl, rfl, ?_, Iff.rfl, Iff.rfl, ?_⟩⟩
  · rintro ⟨-, -, -, hief, -⟩
    cases hief
  · constructor
    · rintro ⟨hreset, hnmi, hint, -, hshadow⟩
      exact ⟨hreset, hnmi, hint, hshadow⟩
    · rintro ⟨hreset, hnmi, hint, hdelay⟩
      exact ⟨hreset, hnmi, hint, rfl, hdelay⟩

/-- Settles O16. -/
theorem mixResult : Obligations.MixResult := ⟨rfl, rfl, fun _ => ⟨rfl, rfl⟩⟩

end Sys2Proof.Machine
end

section
/-! Program control (41_program_control.md): the conditions, the jumps, DJNZ, the calls and the returns, and the returns from an
interrupt routine to the point where the interrupt was accepted (60_exceptions.md). -/

namespace Sys2Proof.Machine

variable {s t : State} {v target : Addr} {cc : Cond}

/-! ### Operands and opcodes -/

/-- A relative target as an integer sum, taken modulo 2^24 (R77, R136). -/
theorem relTarget_eq (next : Addr) (d : Byte) : relTarget next d = BitVec.ofInt 24 (next.toNat + d.toInt) := by
  rw [relTarget, BitVec.signExtend, BitVec.ofInt_add, BitVec.ofInt_natCast, BitVec.ofNat_toNat, BitVec.setWidth_eq]

/-- In the patterns `11 ccc low` each step of the field at 5:3 is eight (R71, R72). -/
theorem fieldOpcode_eq : ∀ low code : BitVec 3,
    0b11#2 ++ code ++ low = (0b11#2 ++ 0b000#3 ++ low) + 8#8 * code.setWidth 8 := by decide

/-- The conditions that fit two bits are those of `jr cc` (R73). -/
theorem Cond.fitsTwoBits_iff : cc.fitsTwoBits = true ↔ cc = .nz ∨ cc = .z ∨ cc = .nc ∨ cc = .c := by
  cases cc <;> decide

/-! ### Conditions -/

/-- Settles O17: of each pair of conditions on a flag, the even code wants it reset and the odd one set. -/
theorem conditionTable : Obligations.ConditionTable := by
  refine ⟨fun f => ?_, ⟨rfl, rfl, rfl, rfl, rfl, rfl, rfl, rfl⟩, ⟨rfl, rfl, rfl, rfl⟩, fun cc f => ?_⟩
  · simp only [condHolds, Bool.not_eq_true', and_self]
  · cases cc with
    | nz | nc | po | p => exact (beq_false _).symm
    | z | c | pe | m => exact (beq_true _).symm

/-! ### Jumps -/

/-- Settles O19. -/
theorem jpRegisterResult : Obligations.JpRegisterResult := ⟨rfl, rfl, rfl, fun _ => ⟨rfl, rfl, rfl⟩⟩

/-- Settles O20: both outcomes of the condition are next states. -/
theorem jpAbsoluteResult : Obligations.JpAbsoluteResult :=
  ⟨fun _ => rfl, fun cc a => congrArg (· :: imm24Bytes a) (fieldOpcode_eq 0b010#3 cc.code3),
    fun _ _ => ⟨rfl, fun _ => (apply_ite Host.Outcome.next _ _ _).symm⟩⟩

/-- Settles O21, with the relative target read as an integer sum. -/
theorem jrResult : Obligations.JrResult := by
  refine ⟨fun _ => rfl, fun _ => ⟨rfl, rfl, rfl, rfl⟩, fun _ _ => Cond.fitsTwoBits_iff, fun s d => ?_⟩
  rw [← relTarget_eq]
  exact ⟨rfl, fun _ _ => (apply_ite Host.Outcome.next _ _ _).symm⟩

/-! ### DJNZ -/

/-- DJNZ does not branch exactly from `B = 1` (R123). -/
theorem exec_djnz (s : State) (d : Byte) :
    exec (.djnz d) s = if s.b = 1#8 then .next (s.setB 0#8) else .next ((s.setB (s.b - 1#8)).setPc (relTarget s.pc d)) := by
  have hzero : s.b - 1#8 = 0#8 ↔ s.b = 1#8 := by bv_omega
  simp only [exec, execDjnz, hzero]
  split
  next h => rw [h]; rfl
  next => rfl

/-- The decrement as an integer sum, taken modulo 2^8. -/
theorem Byte.sub_one_eq (b : Byte) : b - 1#8 = BitVec.ofNat 8 (b.toNat + 255) := by bv_omega

/-- Settles O18, with both sums modulo a power of two read as integer sums. -/
theorem djnzResult : Obligations.DjnzResult := by
  refine ⟨fun _ => rfl, fun s d => ⟨fun h => ?_, fun h => ?_, fun h => ?_⟩⟩
  · rw [exec_djnz, if_pos h]
    rfl
  · rw [exec_djnz, if_neg h, Byte.sub_one_eq, relTarget_eq]
    rfl
  · rw [h]
    rfl

/-! ### Calls -/

theorem exec_callCc_of_true (h : condHolds cc s.flags = true) (a : Addr) : exec (.callCc cc a) s = exec (.call a) s := if_pos h

theorem exec_callCc_of_false (h : condHolds cc s.flags = false) (a : Addr) : exec (.callCc cc a) s = .next s :=
  if_neg (ne_true_of_eq_false h)

/-- A call whose push is admitted (R122). -/
theorem exec_call (h : s.pushReady) (a : Addr) : ∃ t, exec (.call a) s = .next t ∧ s.Called t a :=
  ⟨_, callTo_ok h, s.afterPush_called a⟩

/-- Settles O22. -/
theorem callResult : Obligations.CallResult := ⟨fun _ => rfl, fun _ a h => exec_call h a⟩

/-- Settles O23: a taken `call cc` is `call`. -/
theorem callCcResult : Obligations.CallCcResult := by
  refine ⟨fun cc a => congrArg (· :: imm24Bytes a) (fieldOpcode_eq 0b100#3 cc.code3), fun s cc a =>
    ⟨fun h => exec_callCc_of_false h a, fun h => exec_callCc_of_true h a, fun h hp => ?_⟩⟩
  rw [exec_callCc_of_true h]
  exact exec_call hp a

/-! ### Returns -/

theorem exec_retCc_of_true (h : condHolds cc s.flags = true) : exec (.retCc cc) s = exec .ret s := if_pos h

theorem exec_retCc_of_false (h : condHolds cc s.flags = false) : exec (.retCc cc) s = .next s :=
  if_neg (ne_true_of_eq_false h)

/-- Settles O25. -/
theorem retResult : Obligations.RetResult := ⟨rfl, rfl, fun _ h => ⟨returnTop_ok h, returnTop_ok h⟩⟩

/-- Settles O26: a taken `ret cc` is `ret`. -/
theorem retCcResult : Obligations.RetCcResult :=
  ⟨fun cc => congrArg (fun b => [b]) (fieldOpcode_eq 0b000#3 cc.code3), fun _ _ =>
    ⟨exec_retCc_of_false, exec_retCc_of_true, fun h hp => (exec_retCc_of_true h).trans (returnTop_ok hp)⟩⟩

/-- Settles O27: of the conditions of acceptance RETN touches `IEF1` alone, which is then the old `IEF2`. -/
theorem retnResult : Obligations.RetnResult := by
  refine ⟨rfl, fun s h => ⟨_, returnFromNmi_ok h, rfl, fun hshadow => ?_⟩⟩
  constructor
  · rintro ⟨hreset, hnmi, hint, hief, -⟩
    exact ⟨hreset, hnmi, hint, hief⟩
  · rintro ⟨hreset, hnmi, hint, hief⟩
    exact ⟨hreset, hnmi, hint, hief, hshadow⟩

/-! ### Returns from an interrupt routine -/

/-- A pop after a push leaves the stack pointer as it was before the push (R61). -/
theorem State.Pushed.sp_add_three (h : s.Pushed t v) : t.sp + 3#24 = s.sp := by
  rw [h.sp]
  exact BitVec.sub_add_cancel s.sp 3#24

/-- The platform admits reading the three bytes below `SP`: the bytes that an interrupt entry pushes. -/
def State.belowReadable (s : State) : Prop :=
  s.admits .read (s.sp - 1#24) = true ∧ s.admits .read (s.sp - 2#24) = true ∧ s.admits .read (s.sp - 3#24) = true

/-- Wherever the routine has gone, what the entry pushed can be popped. -/
theorem State.Interrupted.popReady (h : s.Interrupted t target) (hr : s.belowReadable) (p : Addr) : (t.setPc p).popReady := by
  obtain ⟨h1, h2, h3⟩ := hr
  exact (h.pushed.setPc p).popReady h.registers.unbacked h1 h2 h3

/-- A RETI in the routine goes on to the boundary `PC`, with `SP` as before the entry and the interrupt flags as it finds them
(R133). -/
theorem State.Interrupted.exec_reti (h : s.Interrupted t target) (hr : s.belowReadable) (p : Addr) :
    ∃ u, exec .reti (t.setPc p) = .next u ∧ u.pc = s.pc ∧ u.sp = s.sp ∧ u.ief1 = t.ief1 ∧ u.ief2 = t.ief2 :=
  ⟨_, returnTop_ok (h.popReady hr p), (h.pushed.setPc p).stackTop, (h.pushed.setPc p).sp_add_three, rfl, rfl⟩

/-- A RETN in the routine goes on to the boundary `PC`, with `SP` as before the entry and `IEF1` as it finds `IEF2` (R134). -/
theorem State.Interrupted.exec_retn (h : s.Interrupted t target) (hr : s.belowReadable) (p : Addr) :
    ∃ u, exec .retn (t.setPc p) = .next u ∧ u.pc = s.pc ∧ u.sp = s.sp ∧ u.ief1 = t.ief2 :=
  ⟨_, returnFromNmi_ok (h.popReady hr p), (h.pushed.setPc p).stackTop, (h.pushed.setPc p).sp_add_three, rfl⟩

/-- A maskable acceptance that has a target enters it with both interrupt flags reset (R155, R159). -/
theorem step_int_interrupted (ha : s.intAccepted) (ht : s.intTarget target) (hm : s.madl = false) (hp : s.pushReady) :
    ∃ t, step s = .next t ∧ s.Interrupted t target ∧ t.ief1 = false ∧ t.ief2 = false :=
  ⟨_, (step_int ha).trans ((acceptInt_at ht).trans (enterInterrupt_ok hm hp)), s.afterEntry_interrupted target false false,
    rfl, rfl⟩

/-- A nonmaskable acceptance enters at `NMI_VECTOR` with `IEF1` reset and `IEF2` as `NMI_IEF2` says (R155, R160). -/
theorem step_nmi_interrupted (ha : s.nmiAccepted) (hm : s.madl = false) (hp : s.pushReady) :
    ∃ t, step s = .next t ∧ s.Interrupted t Config.nmiVector ∧ t.ief1 = false ∧
      t.ief2 = if Config.nmiCopiesIef1 = true then s.ief1 else s.ief2 :=
  ⟨_, (step_nmi ha).trans (enterInterrupt_ok hm hp), s.afterEntry_interrupted Config.nmiVector false _, rfl, rfl⟩

/-- Settles O47: the entry resets both interrupt flags and RETI writes neither. -/
theorem retiReturns : Obligations.RetiReturns := by
  intro s target ha ht hm hp h1 h2 h3
  obtain ⟨t, hstep, hentry, hief1, hief2⟩ := step_int_interrupted ha ht hm hp
  refine ⟨t, hstep, hentry.pc, fun p => ?_⟩
  obtain ⟨u, hu, hpc, hsp, hu1, hu2⟩ := hentry.exec_reti ⟨h1, h2, h3⟩ p
  exact ⟨u, hu, hpc, hsp, hu1.trans hief1, hu2.trans hief2⟩

/-- Settles O48: with `IEF1 = IEF2` either value of `NMI_IEF2` leaves the old `IEF1` in `IEF2`, where RETN finds it. -/
theorem retnRestoresEnable : Obligations.RetnRestoresEnable := by
  intro s ha hm hp heq h1 h2 h3
  obtain ⟨t, hstep, hentry, hief1, hief2⟩ := step_nmi_interrupted ha hm hp
  have hold : t.ief2 = s.ief1 := by rw [hief2, ← heq, ite_self]
  refine ⟨t, hstep, hief1, fun p => ?_⟩
  obtain ⟨u, hu, hpc, hsp, hu1⟩ := hentry.exec_retn ⟨h1, h2, h3⟩ p
  exact ⟨u, hu, hpc, hsp, hu1.trans hold⟩

end Sys2Proof.Machine
end

section
/-! Exceptions and interrupts (60_exceptions.md): the step that runs an instruction, the stops of an instruction, the acceptance
of a nonmaskable and of a maskable interrupt, and the order of the events at a boundary. -/

namespace Sys2Proof.Machine

variable {s t : State} {i : Instr} {r : Refusal} {f : Fault} {d : Byte}

/-! ### Steps that run an instruction -/

/-- What `settle` makes of each outcome: every instruction but EI that goes on clears the hidden bit (R33, R152). -/
theorem settle_eq (i : Instr) (o : Outcome) :
    settle i o = match o with
      | .next u => .next (if i = .ei then u else { u with eiShadow := false })
      | .fault f => .fault f
      | .refused r => .refused r := by
  cases o with
  | next u => exact (apply_ite Host.Outcome.next (i = .ei) u (u.setEiShadow false)).symm
  | fault f => rfl
  | refused r => rfl

/-- Settles O9: the encoding at `PC` is fetched and decoded back to its instruction, which runs and is then settled. -/
theorem stepRunsEncoded : Obligations.StepRunsEncoded :=
  fun _ i hw hq hr hc => (step_of_holdsCode hw hq hr hc).trans (settle_eq i _)

theorem runInstr_of_decode {bytes rest : List Byte} (hf : fetchInstr s = .ok (bytes, t)) (hd : decode bytes = .ok (i, rest)) :
    runInstr s = settle i (exec i t) := by
  simp only [runInstr, hf, hd]

/-- Settles O8: the fetch moves `PC` alone, and the decoded instruction runs and is then settled. -/
theorem stepRunsDecoded : Obligations.StepRunsDecoded := fun _ _ _ _ i hq hr hf hd =>
  ⟨fetchInstr_frame hf, (step_running hq hr).trans ((runInstr_of_decode hf hd).trans (settle_eq i _))⟩

/-! ### Where an instruction stops -/

/-- Every instruction is a call, a return, or one that goes on; none of them is refused (R150). -/
theorem exec_not_refused : exec i s ≠ .refused r := by
  cases hu : stackUse s.flags i with
  | push =>
    obtain ⟨target, hx⟩ := exec_of_push hu
    rw [hx]
    exact callTo_not_refused
  | pop =>
    rcases exec_of_pop hu with hx | hx <;> rw [hx]
    · exact returnTop_not_refused
    · exact returnFromNmi_not_refused
  | untouched =>
    obtain ⟨t, hx⟩ := exec_of_untouched hu
    rw [hx]
    exact nofun

/-- An instruction that stops makes a push of which a write is not admitted, or a pop of which a read is not (R55, R56, R60). -/
theorem exec_fault (h : exec i s = .fault f) :
    (stackUse s.flags i = .push ∧ ∃ a, s.pushes a ∧ f = .notAdmitted .write a ∧ s.admits .write a = false) ∨
    (stackUse s.flags i = .pop ∧ ∃ a, s.pops a ∧ f = .notAdmitted .read a ∧ s.admits .read a = false) := by
  cases hu : stackUse s.flags i with
  | push =>
    obtain ⟨target, hx⟩ := exec_of_push hu
    exact .inl ⟨rfl, callTo_fault (hx.symm.trans h)⟩
  | pop =>
    refine .inr ⟨rfl, ?_⟩
    rcases exec_of_pop hu with hx | hx
    · exact returnTop_fault (hx.symm.trans h)
    · exact returnFromNmi_fault (hx.symm.trans h)
  | untouched =>
    obtain ⟨t, hx⟩ := exec_of_untouched hu
    cases hx.symm.trans h

/-- Settles O30: only a push and a pop can stop, and the instructions that make one are those listed. -/
theorem noSynchronousException : Obligations.NoSynchronousException := by
  refine fun i s => ⟨fun r => exec_not_refused, fun f h => ?_⟩
  rcases exec_fault h with ⟨hu, a, ha, hf, hn⟩ | ⟨hu, a, ha, hf, hn⟩
  · exact .inl ⟨a, ha, hf, hn, stackUse_push_iff.mp hu⟩
  · exact .inr ⟨a, ha, hf, hn, stackUse_pop_iff.mp hu⟩

/-! ### Acceptances that enter a routine -/

/-- Settles O36: mode 1 has `$000038` as its target. -/
theorem maskableMode1 : Obligations.MaskableMode1 :=
  fun _ ha hi hm hp => step_int_interrupted ha (.inr (.inl ⟨hi, rfl⟩)) hm hp

/-- Settles O37: mode 0 has the restart address of the inserted RST as its target. -/
theorem maskableMode0 : Obligations.MaskableMode0 :=
  fun _ r ha hi hm hp hd => step_int_interrupted ha (.inl ⟨hi, r, hd, rfl⟩) hm hp

/-- Settles O40: where `IEF1 = IEF2` the two values of `NMI_IEF2` agree. -/
theorem nmiAccepted : Obligations.NmiAccepted := by
  intro s ha hm hp
  obtain ⟨t, hstep, hentry, hief1, hief2⟩ := step_nmi_interrupted ha hm hp
  exact ⟨t, hstep, hentry, hief1, hief2, fun heq => by rw [hief2, heq, ite_self]⟩

/-! ### Acceptances that are refused -/

/-- A byte read as a one-byte RST is the opcode of that RST (R157, R74). -/
theorem eq_of_insertedRst {k : BitVec 3} (h : insertedRst d = some k) : d = BitVec.ofNat 8 (0xC7 + 8 * k.toNat) := by
  unfold insertedRst at h
  split at h
  next hc =>
    obtain rfl : d.extractLsb' 3 3 = k := Option.some.inj h
    have hfields := byte_of_fields d hc.1
    rw [hc.2] at hfields
    exact hfields.trans (List.head_eq_of_cons_eq (encode_rst _))
  next => cases h

/-- Settles O38: a byte that is no RST's opcode gives mode 0 no target. -/
theorem maskableMode0Refused : Obligations.MaskableMode0Refused := by
  intro s ha hi hne
  have hnone : insertedRst s.input.device = none :=
    Option.eq_none_iff_forall_ne_some.mpr fun k hk => hne k (eq_of_insertedRst hk)
  simp only [step_int ha, acceptInt, State.takeInput_im, hi, hnone]

/-- Every maskable acceptance ends in an entry, but mode 0 without an inserted RST; so `MADL = 1` refuses it (R161). -/
theorem acceptInt_refused (hm : s.madl = true) (h0 : s.im = .mode0 → ∃ k, insertedRst d = some k) :
    acceptInt d s = .refused .mixedModeAcceptance := by
  have hm' : ((s.setIef1 false).setIef2 false).madl = true := hm
  unfold acceptInt
  cases hi : s.im with
  | mode0 =>
    obtain ⟨k, hk⟩ := h0 hi
    simp only [hk]
    exact enterInterrupt_refused hm'
  | mode1 => exact enterInterrupt_refused hm'
  | mode2 => exact enterInterrupt_refused hm'

/-- Settles O41: an acceptance that finds a target, and one of mode 2 before it looks for one, is refused at its entry. -/
theorem mixedModeAcceptanceRefused : Obligations.MixedModeAcceptanceRefused := by
  rintro s hm (hn | ⟨ha, h⟩)
  · exact (step_nmi hn).trans (enterInterrupt_refused hm)
  · refine (step_int ha).trans (acceptInt_refused hm fun hi => ?_)
    rcases h with h | ⟨k, hk⟩
    · exact absurd hi h
    · exact ⟨k, by rw [hk, insertedRst_rst]⟩

/-! ### What a step depends on -/

/-- A reset sees the state with the input taken alone (R152, R190). -/
theorem step_congr_of_reset (hs : s.input.reset = true) (ht : t.input.reset = true) (h : s.takeInput = t.takeInput) :
    step s = step t := by
  rw [step_reset hs, step_reset ht, h]

/-- A nonmaskable acceptance sees the state with the input taken alone (R154, R160). -/
theorem step_congr_of_nmiAccepted (hs : s.nmiAccepted) (ht : t.nmiAccepted) (h : s.takeInput = t.takeInput) :
    step s = step t := by
  rw [step_nmi hs, step_nmi ht, h]

/-- Without an event the instruction, or the wait, sees the state with the input taken alone (R152). -/
theorem step_congr_of_noEvent (hs : s.noEvent) (ht : t.noEvent) (h : s.takeInput = t.takeInput) : step s = step t := by
  have hrun : s.run = t.run := by rw [← s.takeInput_run, h, t.takeInput_run]
  by_cases hr : s.run = .running
  · rw [step_running hs hr, step_running ht (hrun ▸ hr), h]
  · rw [step_suspended hs hr, step_suspended ht (hrun ▸ hr), h]

/-- Settles O42: a masked or shadowed request is no event, with INT or without. -/
theorem maskedRequestIgnored : Obligations.MaskedRequestIgnored := by
  intro s x xs hs hmask hreset hnmi
  have hin : s.input = x := State.input_of_cons hs
  have hq : s.noEvent := by
    refine ⟨hin ▸ hreset, hin ▸ hnmi, ?_⟩
    rintro ⟨-, hief, hshadow⟩
    rcases hmask with h | h
    · exact absurd (h.symm.trans hief) nofun
    · exact absurd (h.symm.trans hshadow) nofun
  refine step_congr_of_noEvent hq ⟨hreset, hnmi, fun ⟨hint, _⟩ => absurd hint nofun⟩ ?_
  rw [State.takeInput, hs]
  rfl

/-- Settles O43: the two boundaries take the same reset, or the same nonmaskable interrupt, from the same state. -/
theorem eventPriority : Obligations.EventPriority := by
  intro s x y xs hxy h
  cases hx : x.reset with
  | true =>
    have hy : y.reset = true := hxy.symm.trans hx
    exact step_congr_of_reset hx hy rfl
  | false =>
    have hy : y.reset = false := hxy.symm.trans hx
    rcases h with h | ⟨hxn, hyn⟩
    · exact absurd (h.symm.trans hx) nofun
    · exact step_congr_of_nmiAccepted ⟨hx, hxn⟩ ⟨hy, hyn⟩ rfl

end Sys2Proof.Machine
end

section
/-! Reset (70_reset_and_hazards.md R190): what the reset event leaves, and the state it starts the CPU from. -/

namespace Sys2Proof.Machine

/-- Settles O44: the boundary takes the reset, whatever else the input holds, and `takeReset` leaves memory, the inputs to come
and the platform as they are. -/
theorem resetEvent : Obligations.ResetEvent :=
  fun s hr => ⟨takeReset s.takeInput, step_reset hr, rfl, rfl, State.takeReset_mem _, State.takeReset_unbacked _, rfl⟩

/-- After reset `IEF1 = 0`, which is the order of the interrupt flags whatever `IEF2` holds (R28, log 1). -/
theorem State.reset_iefOrdered : State.reset.iefOrdered := nofun

/-- After reset the hidden bit is 0 (R33, R190). -/
theorem State.reset_shadowOff : State.reset.shadowOff := fun _ => rfl

/-- Settles O52: the three invariants by their own lemmas at reset. -/
theorem resetInvariant : Obligations.ResetInvariant :=
  ⟨rfl, rfl, Memory.wf_reset, State.reset_iefOrdered, State.reset_shadowOff⟩

end Sys2Proof.Machine
end
